-- ==== Sys2Proof/Word.lean ====
section
/-! DEFINITION. The block's data types: bytes, command words, the four-bit PROP field and the 14-byte
payload (rules R6, R12, R15 of spec/). Every value is unsigned; bit 0 is the least significant bit. -/

namespace Sys2Proof

/-- One octet: a payload register, a mask, a field value, a label code or a RESP element (R12). -/
abbrev Byte := BitVec 8

/-- A command word CMD, 16 bits (R47). -/
abbrev Word := BitVec 16

/-- A four-bit field of the command word: OP or PROP (R47). -/
abbrev Nibble := BitVec 4

/-- A 14-byte payload, positions 0 to 13 (R15): the live register file P, the decoded payload RXP and
the payload a frame carries all have this shape. -/
abbrev Payload := Vector Byte 14

end Sys2Proof
end

