-- ==== Sys2Proof/Syntax.lean ====
section
/-! DEFINITION. The command set: one constructor per row of spec/opcode_table.json (R48, R49). -/

namespace Sys2Proof

/-- The commands of the block. A property operand is the raw four-bit PROP field, because the codes 6
to 15 are legal words that complete with UnknownProperty (R50); a label operand is the raw LBL byte
(R51). `illegal` is the row ILLEGAL: every word that matches no other row, kept whole (R88). -/
inductive Instr where
  | lstp
  | lstl (p : Nibble)
  | get (p : Nibble)
  | set (p : Nibble) (l : Byte)
  | dump
  | dec
  | illegal (w : Word)
deriving DecidableEq, Repr

end Sys2Proof
end

