-- ==== Sys2Proof/WellFormed.lean ====
section
/-! DEFINITION. Which terms of `Instr` stand for a word of the block. The operand types bound every
operand, so the one thing to check is that an `illegal` term really carries an illegal word. The check
reads the word field by field, as the prose of R48, R49 and R53 does; the decoder reads it by mask and
pattern, so that the round trips compare two readings of the spec. -/

namespace Sys2Proof

/-- The words R48 and R49 assign to a command: OP 1, 5 and 6 with PROP = 0 and LBL = 0, OP 2 and 3 with
LBL = 0, OP 4 with any PROP and LBL. OP 0 and 7 to 15 are reserved (R53). -/
def wordIsAssigned (w : Word) : Bool :=
  let op := (w.extractLsb' 12 4).toNat
  let prop := (w.extractLsb' 8 4).toNat
  let lbl := (w.extractLsb' 0 8).toNat
  match op with
  | 1 | 5 | 6 => prop == 0 && lbl == 0
  | 2 | 3 => lbl == 0
  | 4 => true
  | _ => false

/-- An instruction is well formed when it is the reading of some command word: an `illegal` term must
carry a word that no command owns (R53, R88). -/
def Instr.wf : Instr → Bool
  | .lstp => true
  | .lstl _ => true
  | .get _ => true
  | .set _ _ => true
  | .dump => true
  | .dec => true
  | .illegal w => !wordIsAssigned w

end Sys2Proof
end

