-- ==== Sys2Proof/Decode.lean ====
section
/-! DEFINITION. The decoder and the encoder of the command word (R47 to R53).

The block has one command length, 16 bits, and one format (R47). Commands arrive as words from the host
and are never fetched from a memory (R45), so no byte order is involved (R38). Decoding is total: a word
that matches no row IS the row ILLEGAL, and `Instr.illegal` names it with the word it rejects. -/

namespace Sys2Proof

/-- The fields of a command word (R47). -/
def opField (w : Word) : Nibble := w.extractLsb' 12 4

/-- CMD[11:8], the property code (R47, R50). -/
def propField (w : Word) : Nibble := w.extractLsb' 8 4

/-- CMD[7:0], the label code (R47, R51). -/
def lblField (w : Word) : Byte := w.extractLsb' 0 8

/-- One row of the pattern table of R49. -/
structure Pattern where
  mnemonic : String
  mask : Word
  value : Word
deriving DecidableEq, Repr

/-- "A word matches a command when `(CMD & mask) == match`" (R49). -/
def Pattern.accepts (r : Pattern) (w : Word) : Bool := w &&& r.mask == r.value

/-- The row LSTP of R49. -/
def lstpRow : Pattern := ⟨"LSTP", 0xFFFF, 0x1000⟩
/-- The row LSTL of R49. -/
def lstlRow : Pattern := ⟨"LSTL", 0xF0FF, 0x2000⟩
/-- The row GET of R49. -/
def getRow : Pattern := ⟨"GET", 0xF0FF, 0x3000⟩
/-- The row SET of R49. -/
def setRow : Pattern := ⟨"SET", 0xF000, 0x4000⟩
/-- The row DUMP of R49. -/
def dumpRow : Pattern := ⟨"DUMP", 0xFFFF, 0x5000⟩
/-- The row DEC of R49. -/
def decRow : Pattern := ⟨"DEC", 0xFFFF, 0x6000⟩

/-- The six patterns of R49, in the table's order. -/
def patterns : List Pattern := [lstpRow, lstlRow, getRow, setRow, dumpRow, decRow]

/-- The command a word stands for (R49). A word that no row accepts is illegal (R53, R88). -/
def decode (w : Word) : Instr :=
  if lstpRow.accepts w then .lstp
  else if lstlRow.accepts w then .lstl (propField w)
  else if getRow.accepts w then .get (propField w)
  else if setRow.accepts w then .set (propField w) (lblField w)
  else if dumpRow.accepts w then .dump
  else if decRow.accepts w then .dec
  else .illegal w

/-- `{OP, PROP, LBL}` (R47, with the concatenation of R6). -/
def packWord (op prop : Nibble) (lbl : Byte) : Word := (op ++ prop ++ lbl : BitVec (4 + 4 + 8))

/-- The word of an instruction (R48, R49): unused fields are zero, and an illegal word is itself. -/
def encode : Instr → Word
  | .lstp => packWord 0x1 0 0
  | .lstl p => packWord 0x2 p 0
  | .get p => packWord 0x3 p 0
  | .set p l => packWord 0x4 p l
  | .dump => packWord 0x5 0 0
  | .dec => packWord 0x6 0 0
  | .illegal w => w

/-- The instruction the decoder reads from the bits of an opcode-table row; the bits from `nbits` on are
zero. A row is at most one word long (R47: "only this one command length"); a longer one is no command of
this block. -/
def decodeTableWord (nbits w : Nat) : Option Instr :=
  if nbits ≤ 16 then some (decode (BitVec.ofNat 16 (w % 2 ^ nbits))) else none

end Sys2Proof
end

