-- ==== Sys2Proof/Config.lean ====
section
/-! DEFINITION. The parameters of R4: what one instance of the block fixes for its lifetime. A `Config`
is plain data and stands in the state, so that every statement about the machine is about every value of
every parameter; no step changes it (R111(d), log entry 3). -/

namespace Sys2Proof

/-- DEFAULT_MODE_CODE (R4, D11, U2): only the two codes the spec allows, 5 ("off") and 0 ("AUTO"). -/
inductive DefaultMode where
  | off
  | auto
deriving DecidableEq, Repr

/-- A closed interval of capture durations, in capture units. -/
structure Window where
  lo : Nat
  hi : Nat
deriving DecidableEq, Repr

/-- A substitute matcher as plain data (R66: "Any matcher a model substitutes"): one accepted window for
each nominal duration DEC compares with. Marks and spaces may be asymmetric. -/
structure Windows where
  headerMark : Window
  headerSpace : Window
  bitMark : Window
  oneSpace : Window
  zeroSpace : Window
deriving DecidableEq, Repr

/-- MATCH_MARK and MATCH_SPACE (R4, R66): the spec's default, defined from TOL_PCT, or a substitute. -/
inductive MatcherChoice where
  | tolerance (tolPct : Nat)
  | windows (w : Windows)
deriving DecidableEq, Repr

/-- The parameters of R4 that are not fixed by the source. -/
structure Config where
  /-- MATCH_MARK and MATCH_SPACE, with TOL_PCT for the default matcher (D16). -/
  matcher : MatcherChoice
  /-- RAW_TICK_US: microseconds per capture unit (D15). -/
  rawTickUs : Nat
  /-- RAW_W: the width in bits of a capture entry (D15). -/
  rawWidth : Nat
  /-- CAP_MAX less the 228 entries it has at least (D33, OPEN). -/
  capExtra : Nat
  /-- MIN_QUIET_US: the least idle time between frames (D23, OPEN). No rule depends on it (R114). -/
  minQuietUs : Nat
  /-- DEFAULT_MODE_CODE (D11). -/
  defaultMode : DefaultMode
  /-- RESET_TAG: P[12] after reset (D12). -/
  resetTag : Byte
  /-- RX_PRESENT: whether the receive path is wired (D27). -/
  rxPresent : Bool
deriving DecidableEq, Repr

/-- The least legal CAP_MAX (R4, R61). -/
def Config.capMin : Nat := 228

/-- CAP_MAX, the capacity of the capture space in entries (R4: OPEN, at least 228). -/
def Config.capMax (c : Config) : Nat := c.capExtra + Config.capMin

/-- FREE VALUE (log entry 3): the open part of CAP_MAX in the state after reset (R4, OPEN). -/
opaque Config.openCapExtra : Nat

/-- FREE VALUE (log entry 3): MIN_QUIET_US in the state after reset (R4, OPEN). -/
opaque Config.openMinQuietUs : Nat

/-- The default of every row of R4; the two OPEN rows stay free. -/
def Config.standard : Config where
  matcher := .tolerance 25
  rawTickUs := 1
  rawWidth := 32
  capExtra := Config.openCapExtra
  minQuietUs := Config.openMinQuietUs
  defaultMode := .off
  resetTag := 0x00
  rxPresent := true

end Sys2Proof
end

