-- ==== Sys2Proof/Machine/Rom.lean ====
section
/-! DEFINITION. The constant tables (R20 to R23) and the fixed timing constants (R4). The tables are
read-only and no command reads them as memory (R20). -/

namespace Sys2Proof.Machine

/-- The six properties, in the row order of the descriptor table (R20). -/
inductive Property where
  | powerState
  | operationMode
  | temperature
  | fanSpeed
  | verticalPosition
  | horizontalPosition
deriving DecidableEq, Repr

/-- The properties in ROM order (R20). -/
def Property.all : List Property :=
  [.powerState, .operationMode, .temperature, .fanSpeed, .verticalPosition, .horizontalPosition]

/-- The property code of R20 and R50. -/
def Property.code : Property → Nibble
  | .powerState => 0
  | .operationMode => 1
  | .temperature => 2
  | .fanSpeed => 3
  | .verticalPosition => 4
  | .horizontalPosition => 5

/-- The property's name (R20). -/
def Property.name : Property → String
  | .powerState => "powerState"
  | .operationMode => "operationMode"
  | .temperature => "temperature"
  | .fanSpeed => "fanSpeed"
  | .verticalPosition => "verticalPosition"
  | .horizontalPosition => "horizontalPosition"

/-- ROM.tag(p), the command tag of a property (R20). -/
def Property.tag : Property → Byte
  | .powerState => 0x04
  | .operationMode => 0x09
  | .temperature => 0x10
  | .fanSpeed => 0x0D
  | .verticalPosition => 0x19
  | .horizontalPosition => 0x1D

/-- ROM.byte(p), the payload byte that holds a property's field (R20). -/
def Property.byteIndex : Property → Fin 14
  | .powerState => 5
  | .operationMode => 6
  | .temperature => 7
  | .fanSpeed => 8
  | .verticalPosition => 8
  | .horizontalPosition => 11

/-- ROM.mask(p), the bits of that byte the property owns (R20). -/
def Property.mask : Property → Byte
  | .powerState => 0x24
  | .operationMode => 0x0F
  | .temperature => 0x0F
  | .fanSpeed => 0x07
  | .verticalPosition => 0x38
  | .horizontalPosition => 0x0F

/-- The canonical labels of a property with their masked values, in label-code order (R21). The sixth
label of operationMode, "off", is the one §9(a) of the source adds (90_conflicts.md C1). -/
def Property.labels : Property → List (String × Byte)
  | .powerState => [("off", 0x20), ("on", 0x24)]
  | .operationMode =>
    [("AUTO", 0x08), ("FAN", 0x07), ("COOL", 0x03), ("HEAT", 0x01), ("DEHUMIDIFY", 0x02), ("off", 0x05)]
  | .temperature =>
    [("16", 0x0F), ("17", 0x0E), ("18", 0x0D), ("19", 0x0C), ("20", 0x0B), ("21", 0x0A), ("22", 0x09),
     ("23", 0x08), ("24", 0x07), ("25", 0x06), ("26", 0x05), ("27", 0x04), ("28", 0x03), ("29", 0x02),
     ("30", 0x01), ("31", 0x00)]
  | .fanSpeed => [("AUTO", 0x00), ("LOW", 0x02), ("MID", 0x03), ("HIGH", 0x05), ("TURBO", 0x07)]
  | .verticalPosition =>
    [("SWING", 0x38), ("UP", 0x08), ("MIDUP", 0x10), ("MID", 0x18), ("MIDDOWN", 0x20), ("DOWN", 0x28)]
  | .horizontalPosition =>
    [("SWING", 0x0F), ("LEFT", 0x01), ("MIDLEFT", 0x02), ("MID", 0x03), ("MIDRIGHT", 0x04), ("RIGHT", 0x05)]

/-- ROM.count(p), the number of canonical labels (R20, R21). -/
def Property.count (q : Property) : Nat := q.labels.length

/-- ROM.value(p, c), the masked value of a label code (R21). -/
def Property.value (q : Property) (c : Fin q.count) : Byte := (q.labels.get c).2

/-- The interpreter tag ROM: the command tags the receive-side interpreter recognises, each with the name
it is reported under (R23). -/
def tagRom : List (Byte × String) :=
  [(0x04, "on/off"), (0x08, "operation"), (0x09, "operationMode"), (0x0C, "fanspeed"), (0x0D, "fanSpeed"),
   (0x10, "temp_down"), (0x14, "temp_up"), (0x18, "vertical"), (0x19, "verticalPosition"),
   (0x1C, "horizontal"), (0x1D, "horizontalPosition"), (0x24, "sleep")]

/-- PREFIX, the constant P[0..4] (R4, R16). -/
def constPrefix : List Byte := [0x23, 0xCB, 0x26, 0x01, 0x00]

/-- The label code DEFAULT_MODE_CODE selects (R4, D11): 5 is "off", 0 is "AUTO". -/
def defaultModeCode : DefaultMode → Fin (Property.count .operationMode)
  | .off => ⟨5, by decide⟩
  | .auto => ⟨0, by decide⟩

/-- NBITS, payload bits per frame (R4). -/
def nBits : Nat := 112
/-- HDR_MARK_US (R4). -/
def hdrMarkUs : Nat := 3800
/-- HDR_SPACE_US (R4). -/
def hdrSpaceUs : Nat := 1400
/-- BIT_MARK_US, the mark of a bit cell and of the footer (R4). -/
def bitMarkUs : Nat := 600
/-- ONE_SPACE_US (R4). -/
def oneSpaceUs : Nat := 1100
/-- ZERO_SPACE_US (R4). -/
def zeroSpaceUs : Nat := 500
/-- CARRIER_KHZ (R4). -/
def carrierKhz : Nat := 38
/-- The least RAWLEN a capture of one frame has (R61): `2 * 112 + 4`. -/
def minRawLen : Nat := 228

end Sys2Proof.Machine
end

