-- ==== Sys2Proof/Machine/Payload.lean ====
section
/-! DEFINITION. Operations on a 14-byte payload: the field projection and the masked write (R76), the
checksum (R81), the tag-and-checksum steps of SET (R84), and the payload the reset sequence leaves
(R106 to R108). -/

namespace Sys2Proof.Machine

/-- `P[i] <- v`: a whole-byte write of one register (R37). -/
def writeByte (p : Payload) (i : Fin 14) (v : Byte) : Payload := p.set i v

/-- `P[ROM.byte(p)] & ROM.mask(p)`: the current field value of a property (R75). -/
def fieldValue (q : Property) (p : Payload) : Byte := p[q.byteIndex] &&& q.mask

/-- The masked write of a value: `P[b] <- (P[b] & ~m) | v` (R76). -/
def writeField (q : Property) (v : Byte) (p : Payload) : Payload :=
  writeByte p q.byteIndex ((p[q.byteIndex] &&& ~~~q.mask) ||| v)

/-- APPLY(p, c) (R76). Its callers have checked the property and the label code. -/
def applyLabel (q : Property) (c : Fin q.count) (p : Payload) : Payload := writeField q (q.value c) p

/-- The sum of B[0..12] as a natural number (R81: "no width limit"). -/
def byteSum (b : Payload) : Nat := ((b.toList.take 13).map BitVec.toNat).sum

/-- CKSUM(B) (R81): the sum of B[0..12] modulo 256. B[13] is never read. -/
def cksum (b : Payload) : Byte := BitVec.ofNat 8 (byteSum b)

/-- `P[12] <- t`, then `P[13] <- CKSUM(P)`: steps 2 and 3 of SET (R84) and step 3 of reset (R108). -/
def sealPayload (t : Byte) (p : Payload) : Payload :=
  let tagged := writeByte p 12 t
  writeByte tagged 13 (cksum tagged)

/-- Reset step 1: the prefix, then zeros (R106). -/
def zeroedPayload : Payload := #v[0x23, 0xCB, 0x26, 0x01, 0x00, 0, 0, 0, 0, 0, 0, 0, 0, 0]

/-- The payload after reset steps 1 and 2: the defaults applied through APPLY in the order of R107. -/
def defaultsPayload (mode : DefaultMode) : Payload :=
  let p0 := zeroedPayload
  let p1 := applyLabel .powerState ⟨0, by decide⟩ p0
  let p2 := applyLabel .operationMode (defaultModeCode mode) p1
  let p3 := applyLabel .temperature ⟨8, by decide⟩ p2
  let p4 := applyLabel .fanSpeed ⟨0, by decide⟩ p3
  let p5 := applyLabel .verticalPosition ⟨0, by decide⟩ p4
  applyLabel .horizontalPosition ⟨0, by decide⟩ p5

/-- The payload after reset steps 1 to 3: the defaults, then RESET_TAG and the checksum (R106 to R108). -/
def resetPayload (c : Config) : Payload := sealPayload c.resetTag (defaultsPayload c.defaultMode)

end Sys2Proof.Machine
end

