-- ==== Sys2Proof/Machine/State.lean ====
section
/-! DEFINITION. The state of the block as plain data (R15 to R34), what its host, its capture driver and
its platform do next (R5), the reasons a step can stop (R8), and the state after reset (R105 to R110). -/

namespace Sys2Proof.Machine

/-- One event on the TX port (R30). Durations are in microseconds, the carrier in kilohertz. -/
inductive TxEvent where
  | carrier (khz : Nat)
  | mark (us : Nat)
  | space (us : Nat)
deriving DecidableEq, Repr

/-- What an agent outside the block does (R5). The list of these in the state is the order in which they
happen; a command the host presents while another runs waits in it (R113). -/
inductive Input where
  /-- The host issues a command word (R47). -/
  | command (w : Word)
  /-- The capture driver leaves this record in the capture space (R36, R44). `complete = false` says it is
  still writing it. -/
  | capture (record : List Nat) (complete : Bool)
  /-- The platform's TX primitive becomes ready, or stops being so (R111(b)). -/
  | txPrimitive (ready : Bool)
  /-- Power is lost (R104). -/
  | powerLoss
  /-- Power comes up: the reset sequence runs (R104, R105). -/
  | powerUp
deriving DecidableEq, Repr

/-- The faults of the model. The block has no traps (R97), so no step ever faults. -/
inductive Fault where
  /-- Raised by the accessors `readRxp` and `readRxTag` (Operands.lean) when a claim reads RXP or RX_TAG
  while RX_VALID = 0. The spec states this stop: "A model must treat a read of them in that state as a fault
  and must not invent a value" (R33; 93_implementation_defined.md X5, treatment `fault`). No instruction
  reaches it (R33: "No command reads them then"). Safe: no value is invented. -/
  | rxHoldsNoValue
deriving DecidableEq, Repr

/-- Why the model has no step (R8: "only where the host breaks a duty" of R111 to R115). -/
inductive Refusal where
  /-- An arm of `exec` without a meaning. No arm raises it: every instruction has its meaning. Safe. -/
  | notModelled (mnemonic : String)
  /-- Raised by `accept` on a command issued before the reset sequence has completed (R112, U19). Safe. -/
  | commandBeforeReset
  /-- Raised by `runNext` under a configuration that breaks R111(c): "must be refused as a configuration,
  not run" (R112, U15). Safe. -/
  | configurationOutsideSpec
  /-- Raised by `execSet` where it would transmit and the TX primitive is not ready (R8, R111(b)). Safe. -/
  | txPrimitiveNotReady
  /-- Raised by `execDec` when the capture driver is still writing the record (R44, R115, U17). Safe. -/
  | captureUnstable
  /-- Raised by `accept` on a record longer than CAP_MAX or with an entry wider than RAW_W: no capture
  driver of this configuration can leave it (R12, R36; log entry 9). Safe. -/
  | captureDoesNotFit
deriving DecidableEq, Repr

/-- The machine's state. -/
structure State where
  /-- P[0..13], the live payload register file (R15 to R19). -/
  p : Payload
  /-- STATUS, 8 bits (R24). -/
  status : Byte
  /-- RESP, the response list (R25). -/
  resp : List Byte
  /-- RXP[0..13], the payload of the last successful DEC. It "hold[s] no value" before the first one
  (R26, R33), which is the spec's own state `none`; after reset it is that (R34: "no value"). -/
  rxp : Option Payload
  /-- RX_VALID (R27). -/
  rxValid : Bool
  /-- RX_TAG; no value before the first successful DEC (R27, R33); after reset `none` (R34: "no value"). -/
  rxTag : Option Byte
  /-- RX_TAG_VALID (R27). -/
  rxTagValid : Bool
  /-- CMDIDX, the count of commands completed since reset (R28). -/
  cmdIdx : Nat
  /-- TXLOG, every event emitted since reset, oldest first (R30). -/
  txLog : List TxEvent
  /-- CAP[0..RAWLEN-1] in capture units; RAWLEN is its length (R31, R36). -/
  cap : List Nat
  /-- Whether the record in the capture space is complete and at rest (R44, R115). -/
  capComplete : Bool
  /-- Whether the TX primitive is ready (R111(b)). -/
  txReady : Bool
  /-- Whether the reset sequence has completed (R111(a), R112). -/
  resetDone : Bool
  /-- The parameters of this instance (R4). -/
  cfg : Config
  /-- What the outside world does next, in order (R5, R42, R113; log entry 1). -/
  inputs : List Input
deriving DecidableEq, Repr

/-- The state right after the reset sequence of an instance with the parameters `c` (R105 to R109). The
capture space is the driver's; log entry 5 says what it holds here. -/
def State.resetWith (c : Config) : State where
  p := resetPayload c
  status := 0x00
  resp := []
  rxp := none
  rxValid := false
  rxTag := none
  rxTagValid := false
  cmdIdx := 0
  txLog := []
  cap := []
  capComplete := true
  txReady := true
  resetDone := true
  cfg := c
  inputs := []

/-- The state right after reset with the default parameters (R34, R110). -/
def State.reset : State := State.resetWith Config.standard

end Sys2Proof.Machine
end

