-- ==== Sys2Proof/Machine/Flags.lean ====
section
/-! DEFINITION. The status codes (R94) and the receive flags RX_VALID and RX_TAG_VALID (R27, R91). The
block has no other flags (R29). -/

namespace Sys2Proof.Machine

/-- The eight outcomes a command reports (R94). -/
inductive Status where
  | ok
  | unknownProperty
  | unknownLabel
  | insufficientData
  | headerMismatch
  | bitCellMismatch
  | checksumMismatch
  | illegalCommand
deriving DecidableEq, Repr

/-- The code STATUS holds (R94). -/
def Status.code : Status → Byte
  | .ok => 0x00
  | .unknownProperty => 0x01
  | .unknownLabel => 0x02
  | .insufficientData => 0x03
  | .headerMismatch => 0x04
  | .bitCellMismatch => 0x05
  | .checksumMismatch => 0x06
  | .illegalCommand => 0x07

/-- Whether a tag is in the tag ROM: the value RX_TAG_VALID takes (R23, R91). -/
def tagKnown (t : Byte) : Bool := tagRom.any (fun e => e.1 == t)

/-- zext_8 of a flag, as DEC's last RESP byte carries it (R52, R92). -/
def flagByte (b : Bool) : Byte := if b then 1 else 0

end Sys2Proof.Machine
end

