-- ==== Sys2Proof/Machine/Operands.lean ====
section
/-! DEFINITION. What a command's operands select: the property of a PROP field (R50), the label of an LBL
field (R51), the label code of a field value (R77), a capture entry (R36), and the decoded-frame registers
(R33). -/

namespace Sys2Proof.Machine

/-- The property a PROP field names; codes 6 to 15 name none (R50). -/
def propOperand (p : Nibble) : Option Property :=
  match p.toNat with
  | 0 => some .powerState
  | 1 => some .operationMode
  | 2 => some .temperature
  | 3 => some .fanSpeed
  | 4 => some .verticalPosition
  | 5 => some .horizontalPosition
  | _ => none

/-- The label an LBL field names: "code c is known exactly when c < ROM.count(p)" (R51). -/
def labelOperand (q : Property) (l : Byte) : Option (Fin q.count) :=
  if h : l.toNat < q.count then some ⟨l.toNat, h⟩ else none

/-- The label codes of a property in order, `[0, 1, ..., ROM.count(p) - 1]` (R74). -/
def labelCodes (q : Property) : List Byte := (List.range q.count).map (BitVec.ofNat 8)

/-- The code of an unknown or unrecognised label (R51, R52). -/
def noLabel : Byte := 0xFF

/-- LOOKUP(p, v): the code whose value is v, or 0xFF if there is none (R77). -/
def lookup (q : Property) (v : Byte) : Byte :=
  match q.labels.findIdx? (fun e => e.2 == v) with
  | some c => BitVec.ofNat 8 c
  | none => noLabel

/-- RAWLEN, the length of the capture record (R36). -/
def State.rawLen (s : State) : Nat := s.cap.length

/-- A read of RXP[i]. While RX_VALID = 0 it faults, as the spec states: "A model must treat a read of them in
that state as a fault and must not invent a value" (R33; X5, treatment `fault`). No meaning and no step calls
this: R33 "binds only claims that name these registers". -/
def readRxp (s : State) (i : Fin 14) : Except Fault Byte :=
  match s.rxValid, s.rxp with
  | true, some a => .ok a[i]
  | _, _ => .error .rxHoldsNoValue

/-- A read of RX_TAG. While RX_VALID = 0 it faults, by the same words of R33 and X5 as `readRxp`; no meaning
and no step calls this. -/
def readRxTag (s : State) : Except Fault Byte :=
  match s.rxValid, s.rxTag with
  | true, some t => .ok t
  | _, _ => .error .rxHoldsNoValue

end Sys2Proof.Machine
end

