-- ==== Sys2Proof/Machine/Ops.lean ====
section
/-! DEFINITION. The operations every meaning is built from (R7): ending a command with a status and a
response, which advances CMDIDX; writing the payload; emitting TX events; and what the agents outside the
block do to the state. The block has no exceptions and no return from one (R97): an error is the shared
operation `raise`. -/

namespace Sys2Proof.Machine

/-- The end of a command: STATUS and RESP are written and CMDIDX advances by one (R7, R24, R25, R28). -/
def State.finish (s : State) (st : Status) (resp : List Byte) : State :=
  { s with status := st.code, resp := resp, cmdIdx := s.cmdIdx + 1 }

/-- `done(resp)` (R7): the command succeeded. -/
def done (resp : List Byte) (s : State) : Host.Outcome State Fault Refusal := .next (s.finish .ok resp)

/-- `RESP <- resp; raise Err(st)` (R7): the command ends with an error code and no other write. It saves
nothing and goes nowhere: the block takes the next command (R97). -/
def raise (st : Status) (resp : List Byte) (s : State) : Host.Outcome State Fault Refusal :=
  .next (s.finish st resp)

/-- Write the whole payload file inside one atomic command (R37, R41). -/
def State.withPayload (s : State) (p : Payload) : State := { s with p := p }

/-- `Emit`: append events to the TX stream (R7, R30). -/
def State.emit (s : State) (evs : List TxEvent) : State := { s with txLog := s.txLog ++ evs }

/-- `RXP[0..13] <- A[0..13]; RX_VALID <- 1` (R68). -/
def State.storeRxp (s : State) (a : Payload) : State := { s with rxp := some a, rxValid := true }

/-- The capture record a driver of this configuration can leave: at most CAP_MAX entries, each RAW_W bits
wide (R12, R36). -/
def captureFits (c : Config) (record : List Nat) : Bool :=
  decide (record.length ≤ c.capMax) && record.all (fun d => decide (d < 2 ^ c.rawWidth))

/-- The capture driver leaves a record in the capture space (R36, R44). -/
def State.withCapture (s : State) (record : List Nat) (complete : Bool) : State :=
  { s with cap := record, capComplete := complete }

/-- The TX primitive's readiness changes (R111(b)). -/
def State.withTxReady (s : State) (ready : Bool) : State := { s with txReady := ready }

/-- Power-up runs the reset sequence (R104, R105). The capture space and what the outside world does next
are not the block's, and stay (log entry 8). -/
def State.afterPowerUp (s : State) : State :=
  { State.resetWith s.cfg with cap := s.cap, capComplete := s.capComplete, inputs := s.inputs }

/-- Power is lost: "No state survives loss of power" (R104), and until the next power-up the block takes no
command (R112). The capture space, the readiness of the TX primitive and what the outside world does next
are not the block's, and stay.
DESIGN CHOICE (log entry 8), unsafe: what the registers hold while there is no power the spec does not say;
here it is what the next reset sequence writes, RXP and RX_TAG without a value. No command can read them
then, and power-up writes all of them. -/
def State.afterPowerLoss (s : State) : State :=
  { s.afterPowerUp with txReady := s.txReady, resetDone := false }

/-- The next input leaves the list. -/
def State.withInputs (s : State) (rest : List Input) : State := { s with inputs := rest }

end Sys2Proof.Machine
end

