-- ==== Sys2Proof/Machine/Interpreter.lean ====
section
/-! DEFINITION. The receive-side interpreter (44_interpreter.md). -/

namespace Sys2Proof.Machine

/-- INTERPRET(t) (R91): RX_TAG takes the tag as received, RX_TAG_VALID whether the tag ROM knows it. -/
def interpret (t : Byte) (s : State) : State := { s with rxTag := some t, rxTagValid := tagKnown t }

/-- The name a tag is reported under (R23, R92); a tag outside the ROM yields no record (R93). -/
def tagName (t : Byte) : Option String := (tagRom.find? (fun e => e.1 == t)).map Prod.snd

/-- The diagnostic record (R92): the name of RX_TAG while RX_TAG_VALID = 1, else no record. -/
def diagnosticRecord (s : State) : Option String :=
  if s.rxTagValid then s.rxTag.bind tagName else none

end Sys2Proof.Machine
end

