-- ==== Sys2Proof/Machine/Matcher.lean ====
section
/-! DEFINITION. The matchers DEC compares captured durations with (R66), the two conditions M1 and M2 any
matcher must meet, and the check that refuses a configuration which breaks them (R112). -/

namespace Sys2Proof.Machine

/-- MATCH_MARK and MATCH_SPACE: a captured duration in capture units against a nominal duration in
microseconds (R66). The machine takes them from its configuration; the frame decoder is written over any
such pair. -/
structure Matchers where
  mark : Nat → Nat → Bool
  space : Nat → Nat → Bool

/-- The spec's default matcher (R66): exact arithmetic on naturals, closed bounds, no rounding. -/
def toleranceMatch (tolPct tickUs d e : Nat) : Bool :=
  e * (100 - tolPct) ≤ 100 * d * tickUs && 100 * d * tickUs ≤ e * (100 + tolPct)

/-- Membership in a closed window. -/
def Window.holds (w : Window) (d : Nat) : Bool := w.lo ≤ d && d ≤ w.hi

/-- A substitute MATCH_MARK: the header mark and the bit mark are the only marks DEC compares (R68). For any
other nominal duration it answers false, which DEC never asks (DEDUCED, log entry 21). -/
def windowMark (w : Windows) (d e : Nat) : Bool :=
  if e = hdrMarkUs then Window.holds w.headerMark d
  else if e = bitMarkUs then Window.holds w.bitMark d
  else false

/-- A substitute MATCH_SPACE: the header space, the one space and the zero space are the only spaces DEC
compares (R68). For any other nominal duration it answers false, which DEC never asks (DEDUCED, log
entry 21). -/
def windowSpace (w : Windows) (d e : Nat) : Bool :=
  if e = hdrSpaceUs then Window.holds w.headerSpace d
  else if e = oneSpaceUs then Window.holds w.oneSpace d
  else if e = zeroSpaceUs then Window.holds w.zeroSpace d
  else false

/-- The matchers of a configuration (R4, R66). -/
def matchersOf (c : Config) : Matchers :=
  match c.matcher with
  | .tolerance tol => ⟨toleranceMatch tol c.rawTickUs, toleranceMatch tol c.rawTickUs⟩
  | .windows w => ⟨windowMark w, windowSpace w⟩

/-- Condition M1 of R66: a matcher accepts each nominal value it is used with, wherever RAW_TICK_US
divides it. DEDUCED (log entry 21): R66 writes MATCH_X for all five nominal values and does not say whether X
follows the kind of the value; here MATCH_MARK is asked at 3800 and 600 alone and MATCH_SPACE at 1400, 1100
and 500 alone, the pairs in which DEC uses them (R68). -/
def Matchers.M1 (m : Matchers) (tickUs : Nat) : Prop :=
  (∀ e, e = hdrMarkUs ∨ e = bitMarkUs → tickUs ∣ e → m.mark (e / tickUs) e = true) ∧
  (∀ e, e = hdrSpaceUs ∨ e = oneSpaceUs ∨ e = zeroSpaceUs → tickUs ∣ e → m.space (e / tickUs) e = true)

/-- Condition M2 of R66: no duration matches both the one space and the zero space. -/
def Matchers.M2 (m : Matchers) : Prop :=
  ∀ d, ¬ (m.space d oneSpaceUs = true ∧ m.space d zeroSpaceUs = true)

/-- M1 for one window of a substitute matcher. -/
def nominalInside (w : Window) (e tickUs : Nat) : Bool :=
  !(decide (tickUs ∣ e)) || Window.holds w (e / tickUs)

/-- Two windows share no duration. -/
def windowsApart (a b : Window) : Bool := !(decide (max a.lo b.lo ≤ min a.hi b.hi))

/-- The configurations the spec covers (R4, R111(c), R112): TOL_PCT at most 37 for the default matcher, M1
and M2 for a substitute, with M1 read as `Matchers.M1` reads it (DEDUCED, log entry 21). -/
def configOk (c : Config) : Bool :=
  match c.matcher with
  | .tolerance tol => tol ≤ 37
  | .windows w =>
    nominalInside w.headerMark hdrMarkUs c.rawTickUs && nominalInside w.bitMark bitMarkUs c.rawTickUs &&
    nominalInside w.headerSpace hdrSpaceUs c.rawTickUs && nominalInside w.oneSpace oneSpaceUs c.rawTickUs &&
    nominalInside w.zeroSpace zeroSpaceUs c.rawTickUs && windowsApart w.oneSpace w.zeroSpace

end Sys2Proof.Machine
end

