-- ==== Sys2Proof/Machine/FrameCodec.lean ====
section
/-! DEFINITION. The frame codec (40_frame_codec.md): SEND, which serialises a payload onto the TX port,
and the command DEC, which decodes the capture record. Each is one atomic step (R32, R41). -/

namespace Sys2Proof.Machine

/-- The bits of a byte, most significant first (R38, R60). -/
def byteBits (b : Byte) : List Bool := [7, 6, 5, 4, 3, 2, 1, 0].map (fun k => b.getLsbD k)

/-- The 112 bits of a frame in the order they are sent: byte 0 first, MSB first (R60). -/
def payloadBits (b : Payload) : List Bool := b.toList.flatMap byteBits

/-- Frame bit k of a payload: `B[k div 8][7 - (k mod 8)]` (R60). -/
def frameBit (b : Payload) (k : Fin 112) : Bool := b[k.val / 8].getLsbD (7 - k.val % 8)

/-- The space of a bit cell carries its value (R59). -/
def bitSpaceUs (bit : Bool) : Nat := if bit then oneSpaceUs else zeroSpaceUs

/-- One bit cell: a mark and a space (R59). -/
def bitCell (bit : Bool) : List TxEvent := [.mark bitMarkUs, .space (bitSpaceUs bit)]

/-- SEND(B) (R63): carrier, header, 112 bit cells, footer. It is total and checks nothing. -/
def send (b : Payload) : List TxEvent :=
  [.carrier carrierKhz, .mark hdrMarkUs, .space hdrSpaceUs] ++ (payloadBits b).flatMap bitCell ++
    [.mark bitMarkUs]

/-- The duration of an event that is a segment (R10). -/
def TxEvent.duration : TxEvent → Option Nat
  | .carrier _ => none
  | .mark d => some d
  | .space d => some d

/-- Whether an event is a mark (R10). -/
def TxEvent.isMark : TxEvent → Bool
  | .carrier _ => false
  | .mark _ => true
  | .space _ => false

/-- Whether an event is a space (R10). -/
def TxEvent.isSpace : TxEvent → Bool
  | .carrier _ => false
  | .mark _ => false
  | .space _ => true

/-- The durations of the segments among some events, in order (R10, R58). -/
def segments (evs : List TxEvent) : List Nat := evs.filterMap TxEvent.duration

/-- The on-air time of some events in microseconds (R117). -/
def onAirUs (evs : List TxEvent) : Nat := (segments evs).sum

/-- n1, the number of one bits of a payload (R117). -/
def oneBits (b : Payload) : Nat := (payloadBits b).count true

/-- The value of one captured bit cell: `none` if the mark does not match, or if its space matches neither
or both of ONE_SPACE and ZERO_SPACE (R68 step 3, R70(d)). -/
def cellValue (m : Matchers) (mark space : Nat) : Option Bool :=
  if m.mark mark bitMarkUs = false then none
  else if m.space space oneSpaceUs = m.space space zeroSpaceUs then none
  else some (m.space space oneSpaceUs)

/-- The bit cells k, k + 1, …, in order; the first failing cell decides (R68 step 3, R70(f)). The length
check comes first, so no entry is missing; the branch for a missing entry is never taken (log
entry 11). -/
def readCells (m : Matchers) (cap : List Nat) : Nat → Nat → Except Status (List Bool)
  | 0, _ => .ok []
  | n + 1, k =>
    match cap[3 + 2 * k]?, cap[4 + 2 * k]? with
    | some mark, some space =>
      match cellValue m mark space with
      | none => .error .bitCellMismatch
      | some bit =>
        match readCells m cap n (k + 1) with
        | .error e => .error e
        | .ok bits => .ok (bit :: bits)
    | _, _ => .error .insufficientData

/-- Bit cell k contributes bit `7 - (k mod 8)` of its byte when it is a one; the accumulator starts at
zero, so a zero bit needs no action (R69). -/
def assembleByte (bits : List Bool) (i : Nat) : Byte :=
  [0, 1, 2, 3, 4, 5, 6, 7].foldl
    (fun acc j => if bits.getD (8 * i + j) false then acc ||| (1#8 <<< (7 - j)) else acc) 0x00

/-- Bits into a 14-byte payload, byte 0 first, MSB first (R69). -/
def assemble (bits : List Bool) : Payload := Vector.ofFn (fun i => assembleByte bits i.val)

/-- The header check: CAP[1] is a header mark and CAP[2] a header space (R68 step 2). -/
def headerMatches (m : Matchers) (cap : List Nat) : Bool :=
  match cap[1]?, cap[2]? with
  | some mark, some space => m.mark mark hdrMarkUs && m.space space hdrSpaceUs
  | _, _ => false

/-- Steps 1 to 4 of DEC over any capture record and any matchers (R68). CAP[0] and CAP[227] are never
matched and entries from 228 on are never read (R70). -/
def decodeFrame (m : Matchers) (cap : List Nat) : Except Status Payload :=
  if cap.length < minRawLen then .error .insufficientData
  else if headerMatches m cap = false then .error .headerMismatch
  else
    match readCells m cap nBits 0 with
    | .error e => .error e
    | .ok bits =>
      if cksum (assemble bits) = (assemble bits)[13] then .ok (assemble bits)
      else .error .checksumMismatch

/-- DEC (R67, R68): an illegal word when the receive path is absent (R53); no step while the capture
driver is still writing (R115); else the decode, which on success writes RXP and RX_VALID and runs
INTERPRET, and on failure changes only STATUS, RESP and CMDIDX (R71). -/
def execDec (s : State) : Host.Outcome State Fault Refusal :=
  if s.cfg.rxPresent = false then raise .illegalCommand [] s
  else if s.capComplete = false then .refused .captureUnstable
  else
    match decodeFrame (matchersOf s.cfg) s.cap with
    | .error e => raise e [] s
    | .ok a => done (a.toList ++ [flagByte (tagKnown a[12])]) (interpret a[12] (s.storeRxp a))

end Sys2Proof.Machine
end

