-- ==== Sys2Proof/Machine/Controller.lean ====
section
/-! DEFINITION. The controller's commands (43_controller.md): SET, DUMP and the illegal words. -/

namespace Sys2Proof.Machine

/-- The payload SET p, c leaves: the field, then the property's tag, then the checksum (R84 steps 1 to 3,
in the order of R85). -/
def setPayload (q : Property) (c : Fin q.count) (p : Payload) : Payload :=
  sealPayload q.tag (applyLabel q c p)

/-- SET p, c (R84). The property is checked before the label (R96); a failed SET changes only STATUS, RESP
and CMDIDX (R86); a successful one transmits exactly one frame, of the payload it leaves (R64, R85), also
when the field already held the value. Where it would transmit and the TX primitive is not ready, the
host has broken R111(b) and there is no step (R8; log entry 7). -/
def execSet (p : Nibble) (l : Byte) (s : State) : Host.Outcome State Fault Refusal :=
  match propOperand p with
  | none => raise .unknownProperty [] s
  | some q =>
    match labelOperand q l with
    | none => raise .unknownLabel [] s
    | some c =>
      if s.txReady then
        done [] ((s.withPayload (setPayload q c s.p)).emit (send (setPayload q c s.p)))
      else .refused .txPrimitiveNotReady

/-- DUMP (R87): the 14 payload bytes in index order. -/
def execDump (s : State) : Host.Outcome State Fault Refusal := done s.p.toList s

/-- An illegal word (R53, R88): STATUS IllegalCommand, RESP [], nothing else but CMDIDX. -/
def execIllegal (s : State) : Host.Outcome State Fault Refusal := raise .illegalCommand [] s

end Sys2Proof.Machine
end

