-- ==== Sys2Proof/Machine/Registry.lean ====
section
/-! DEFINITION. The property registry's read commands LSTP, LSTL and GET (41_property_registry.md). -/

namespace Sys2Proof.Machine

/-- LSTP (R73): the six property codes in ROM order. -/
def execLstp (s : State) : Host.Outcome State Fault Refusal := done [0, 1, 2, 3, 4, 5] s

/-- LSTL p (R74): the label codes of a property; UnknownProperty with an empty RESP for the codes 6
to 15. -/
def execLstl (p : Nibble) (s : State) : Host.Outcome State Fault Refusal :=
  match propOperand p with
  | none => raise .unknownProperty [] s
  | some q => done (labelCodes q) s

/-- GET p (R75): the label code of the field's current value, 0xFF if the value is unrecognised;
UnknownProperty with RESP [0xFF] for the codes 6 to 15. -/
def execGet (p : Nibble) (s : State) : Host.Outcome State Fault Refusal :=
  match propOperand p with
  | none => raise .unknownProperty [noLabel] s
  | some q => done [lookup q (fieldValue q s.p)] s

end Sys2Proof.Machine
end

