-- ==== Sys2Proof/Machine/Dispatch.lean ====
section
/-! DEFINITION. The one dispatch from a command to its meaning (R48, R89). -/

namespace Sys2Proof.Machine

def exec (i : Instr) (s : State) : Host.Outcome State Fault Refusal :=
  match i with
  | .lstp => Sys2Proof.Machine.execLstp s
  | .lstl p => Sys2Proof.Machine.execLstl p s
  | .get p => Sys2Proof.Machine.execGet p s
  | .set p l => Sys2Proof.Machine.execSet p l s
  | .dump => Sys2Proof.Machine.execDump s
  | .dec => Sys2Proof.Machine.execDec s
  | .illegal _ => Sys2Proof.Machine.execIllegal s

end Sys2Proof.Machine
end

