-- ==== Sys2Proof/Machine/Sequencer.lean ====
section
/-! DEFINITION. Command sequencing (R41, R42, R89): the block takes what the outside world does one thing
at a time, in order. `step` only calls `runNext`. -/

namespace Sys2Proof.Machine

/-- One command word: it is decoded, and the matching rule is performed (R89). A command issued before the
reset sequence has completed has no step (R112). -/
def runCommand (w : Word) (s : State) : Host.Outcome State Fault Refusal :=
  if s.resetDone then exec (decode w) s else .refused .commandBeforeReset

/-- What one input does (R5). Only a command is a command: the others leave STATUS, RESP and CMDIDX as
they are, but for power loss and power-up, which leave none of the block's state (R104; log entry 14).
DESIGN CHOICE (log entry 8): a power-up of a block that is running, with no power loss listed before it, runs
the reset sequence all the same. The spec has no reset but the one at power-up and is silent on this case;
the input stands for a loss of power and the power-up after it, taken as one. -/
def accept (i : Input) (s : State) : Host.Outcome State Fault Refusal :=
  match i with
  | .command w => runCommand w s
  | .capture record complete =>
    if captureFits s.cfg record then .next (s.withCapture record complete) else .refused .captureDoesNotFit
  | .txPrimitive ready => .next (s.withTxReady ready)
  | .powerLoss => .next s.afterPowerLoss
  | .powerUp => .next s.afterPowerUp

/-- The next thing that happens. A configuration outside the spec is refused, not run (R112). With nothing
to take, the block is quiescent and nothing changes (R104, R105; log entry 2). -/
def runNext (s : State) : Host.Outcome State Fault Refusal :=
  if configOk s.cfg then
    match s.inputs with
    | [] => .next s
    | i :: rest => accept i (s.withInputs rest)
  else .refused .configurationOutsideSpec

/-- The host presents a word as the very next thing the block takes. The fetch needs a block whose reset
sequence has completed (R112), so that is set too. -/
def presentWord (s : State) (w : Word) : State :=
  { s with resetDone := true, inputs := .command w :: s.inputs }

end Sys2Proof.Machine
end

