-- ==== Sys2Proof/Machine/Step.lean ====
section
/-! DEFINITION. One step of the machine, and how a command word is placed where the next step takes it. -/

namespace Sys2Proof.Machine

/-- One step: the next input is taken and runs to completion (R41, R89). -/
def step (s : State) : Host.Outcome State Fault Refusal := runNext s

/-- `s` with an instruction placed where the next step takes its command from: the head of the inputs. A
command is one 16-bit word (R47); the bits from `nbits` on are zero. -/
def State.withFetchWord (s : State) (nbits w : Nat) : State :=
  presentWord s (BitVec.ofNat 16 (w % 2 ^ nbits))

end Sys2Proof.Machine
end

