-- ==== Sys2Proof/Machine/StringLayer.lean ====
section
/-! DEFINITION. The string layer (R11, R54 to R57): pure functions between the source's string-keyed API
and the command words, and back. No step uses them. -/

namespace Sys2Proof.Machine

/-- A property name to a PROP code by exact match; any other string gives 0xF (R54, D40). -/
def propOfName (name : String) : Nibble :=
  match Property.all.find? (fun q => q.name == name) with
  | some q => q.code
  | none => 0xF

/-- The code of a canonical label, or of a label with a suffix added to every canonical one (R55). -/
def canonicalCode (q : Property) (suffix label : String) : Option Byte :=
  (q.labels.findIdx? (fun e => e.1 ++ suffix == label)).map (BitVec.ofNat 8)

/-- The uppercase power labels (R55 step 2). No other property has them. -/
def powerAlias (q : Property) (label : String) : Option Byte :=
  if q = .powerState then
    if label == "OFF" then some 0 else if label == "ON" then some 1 else none
  else none

/-- The temperature labels with a ".0" suffix (R55 step 3). -/
def temperatureAlias (q : Property) (label : String) : Option Byte :=
  if q = .temperature then canonicalCode q ".0" label else none

/-- A label string of a property to a label code (R55): canonical, then the aliases, else 0xFF. -/
def labelOfName (q : Property) (label : String) : Byte :=
  match canonicalCode q "" label with
  | some c => c
  | none =>
    match powerAlias q label with
    | some c => c
    | none =>
      match temperatureAlias q label with
      | some c => c
      | none => noLabel

/-- The text of a label code GET or LSTL returns: the canonical label, and "" for 0xFF (R56). A code that
neither can return has no text. -/
def labelText (q : Property) (c : Byte) : Option String :=
  if c = noLabel then some "" else (q.labels[c.toNat]?).map Prod.fst

/-- The names LSTP's codes map back to (R54). -/
def propertyText (c : Byte) : Option String := (Property.all[c.toNat]?).map Property.name

/-- One uppercase hexadecimal digit. -/
def hexDigit (n : Nibble) : Char :=
  (['0', '1', '2', '3', '4', '5', '6', '7', '8', '9', 'A', 'B', 'C', 'D', 'E', 'F'].getD n.toNat '0')

/-- A byte as two uppercase hexadecimal digits (R56). -/
def hexByte (b : Byte) : List Char := [hexDigit (b.extractLsb' 4 4), hexDigit (b.extractLsb' 0 4)]

/-- The text of DUMP's response: uppercase pairs separated by one space, byte 0 first (R56, D29). -/
def dumpText (bytes : List Byte) : String :=
  String.ofList (((bytes.map hexByte).intersperse [' ']).flatten)

/-- A decimal numeral of a value up to `max`, without leading zeros (R57; log entry 12). -/
def decimalUpTo (max : Nat) (s : String) : Option Nat :=
  (List.range (max + 1)).find? (fun n => Nat.repr n == s)

/-- `<prop>` of the assembler syntax: a decimal code 0 to 15, or a property name (R57). -/
def propText (s : String) : Nibble :=
  match decimalUpTo 15 s with
  | some n => BitVec.ofNat 4 n
  | none => propOfName s

/-- The label code of a label string under a PROP code. The label of an unknown property is not looked up;
0xFF stands for it (log entry 12). -/
def labelUnder (p : Nibble) (label : String) : Byte :=
  match propOperand p with
  | some q => labelOfName q label
  | none => noLabel

/-- `<label>` of the assembler syntax: `#` and a decimal code 0 to 255, or a label string of the property
(R57). -/
def lblText (p : Nibble) (s : List Char) : Byte :=
  match s with
  | '#' :: digits =>
    match decimalUpTo 255 (String.ofList digits) with
    | some n => BitVec.ofNat 8 n
    | none => labelUnder p (String.ofList s)
  | _ => labelUnder p (String.ofList s)

/-- The text before the first separator, and the text after it if there is one. -/
def splitAtFirst (sep : Char) : List Char → List Char × Option (List Char)
  | [] => ([], none)
  | c :: cs =>
    if c = sep then ([], some cs)
    else (c :: (splitAtFirst sep cs).1, (splitAtFirst sep cs).2)

/-- The operands of SET: `<prop>, <label>`, with one comma and one space between them (R57). -/
def setOperands (r : List Char) : Option Instr :=
  match splitAtFirst ',' r with
  | (prop, some (' ' :: label)) =>
    let p := propText (String.ofList prop)
    some (.set p (lblText p label))
  | _ => none

/-- One line of assembly to its command (R57). A line that is not of the syntax has none. -/
def assembleInstr (line : String) : Option Instr :=
  match splitAtFirst ' ' line.toList with
  | (op, none) =>
    if String.ofList op == "LSTP" then some .lstp
    else if String.ofList op == "DUMP" then some .dump
    else if String.ofList op == "DEC" then some .dec
    else none
  | (op, some r) =>
    if String.ofList op == "LSTL" then some (.lstl (propText (String.ofList r)))
    else if String.ofList op == "GET" then some (.get (propText (String.ofList r)))
    else if String.ofList op == "SET" then setOperands r
    else none

/-- One line of assembly to its command word (R57). -/
def assembleLine (line : String) : Option Word := (assembleInstr line).map encode

/-- The calls of the source's controller API (R57). -/
inductive ApiCall where
  | listProperties
  | listLabels (name : String)
  | get (name : String)
  | set (name label : String)
  | dumpState
  | decode (raw : List Nat)
deriving DecidableEq, Repr

/-- The command an API call expands to (R57). An API call carries names and labels, never numeric codes, so
its strings go through R54 and R55 alone (log entry 12). -/
def apiInstr : ApiCall → Instr
  | .listProperties => .lstp
  | .listLabels name => .lstl (propOfName name)
  | .get name => .get (propOfName name)
  | .set name label => .set (propOfName name) (labelUnder (propOfName name) label)
  | .dumpState => .dump
  | .decode _ => .dec

/-- What the outside world does for an API call (R57): `decode(raw)` first loads the capture record. -/
def apiInputs (call : ApiCall) : List Input :=
  match call with
  | .decode raw => [.capture raw true, .command (encode (apiInstr call))]
  | _ => [.command (encode (apiInstr call))]

end Sys2Proof.Machine
end

