-- ==== Sys2Proof/Safety.lean ====
section
/-! DEFINITION. What holds of a block at every command boundary (R90), in the terms the statements use: the
invariant `Inv` of the machine, its parts, and what a run of commands is. -/

namespace Sys2Proof.Machine

/-- (I1) The prefix bytes of a payload are PREFIX (R16, R90). -/
def prefixHolds (p : Payload) : Prop := p.toList.take 5 = constPrefix

/-- (I2) Every property's field holds the value of one of its labels (R90). -/
def fieldsKnown (p : Payload) : Prop := ∀ q : Property, ∃ c : Fin q.count, fieldValue q p = q.value c

/-- The bits of a payload byte that some property owns (the table of R17). -/
def ownedBits (i : Fin 14) : Byte :=
  ((Property.all.filter (fun q => q.byteIndex = i)).map Property.mask).foldl (· ||| ·) 0

/-- (I6) The bits of P[5..11] that no property owns are 0 (R79, R90). -/
def unownedClear (p : Payload) : Prop :=
  ∀ i : Fin 14, 5 ≤ i.val → i.val ≤ 11 → p[i] &&& ~~~ownedBits i = 0

/-- (I4) P[13] is the checksum of P[0..12] (R82, R90). -/
def sealed (p : Payload) : Prop := p[13] = cksum p

/-- (I5) The tag of a payload is some property's command tag (R18, R90). -/
def tagOfProperty (p : Payload) : Prop := ∃ q : Property, p[12] = q.tag

/-- (I5, I7) TXLOG is exactly the frames of a list of payloads, each sealed and carrying a property's tag.
With no frame the payload is the reset payload; else it is the payload of the last frame (R90). -/
def framesExplain (s : State) : Prop :=
  ∃ frames : List Payload,
    s.txLog = frames.flatMap send ∧
    (∀ b ∈ frames, sealed b ∧ tagOfProperty b) ∧
    (frames = [] → s.p = resetPayload s.cfg) ∧
    (∀ b, frames.getLast? = some b → s.p = b)

/-- RX_VALID says whether RXP and RX_TAG hold a value; RX_TAG is RXP[12], RX_TAG_VALID its membership in
the tag ROM, and a decoded payload is sealed (R26, R27, R33, R68). -/
def rxCoherent (s : State) : Prop :=
  (s.rxValid = false ∧ s.rxp = none ∧ s.rxTag = none ∧ s.rxTagValid = false) ∨
  (∃ a, s.rxValid = true ∧ s.rxp = some a ∧ s.rxTag = some a[12] ∧ s.rxTagValid = tagKnown a[12] ∧ sealed a)

/-- The invariant of the machine at every command boundary after reset (R90), with the bounds of STATUS
(R94) and of the capture space (R12, R36). -/
structure Inv (s : State) : Prop where
  prefixBytes : prefixHolds s.p
  fields : fieldsKnown s.p
  unowned : unownedClear s.p
  checksum : sealed s.p
  frames : framesExplain s
  statusCode : s.status.toNat ≤ 7
  rx : rxCoherent s
  capture : captureFits s.cfg s.cap = true

/-- A block that runs: its configuration is one the spec covers and its reset sequence has completed, so a
command it is given is performed (R111, R112). -/
def State.running (s : State) : Prop := configOk s.cfg = true ∧ s.resetDone = true

/-- The header of a capture record matches (R68 step 2). -/
def headerReads (m : Matchers) (cap : List Nat) : Prop :=
  ∃ d g, cap[1]? = some d ∧ cap[2]? = some g ∧ m.mark d 3800 = true ∧ m.space g 1400 = true

/-- Bit cell k of a capture record reads as a bit: its mark matches, and its space matches exactly one of
the two nominal spaces (R68 step 3). -/
def cellReads (m : Matchers) (cap : List Nat) (k : Nat) (bit : Bool) : Prop :=
  ∃ d g, cap[3 + 2 * k]? = some d ∧ cap[4 + 2 * k]? = some g ∧ m.mark d 600 = true ∧
    m.space g 1100 = bit ∧ m.space g 500 = !bit

/-- Bit cell k of a capture record fails: its mark does not match, or its space matches neither or both of
the two nominal spaces (R68 step 3, R94). -/
def cellFails (m : Matchers) (cap : List Nat) (k : Nat) : Prop :=
  ∃ d g, cap[3 + 2 * k]? = some d ∧ cap[4 + 2 * k]? = some g ∧
    (m.mark d 600 = false ∨ m.space g 1100 = m.space g 500)

/-- The command words of a list of known property and label pairs, as the host issues them (R84). -/
def setWords (sets : List ((q : Property) × Fin q.count)) : List Input :=
  sets.map (fun x => .command (encode (.set x.1.code (BitVec.ofNat 8 x.2.val))))

/-- The payloads a list of successful SETs goes through, in order (R42). -/
def setPayloads (p : Payload) : List ((q : Property) × Fin q.count) → List Payload
  | [] => []
  | x :: rest => setPayload x.1 x.2 p :: setPayloads (setPayload x.1 x.2 p) rest

end Sys2Proof.Machine
end

