-- ==== Sys2Proof/Certificates/Slice0/Obligations.lean ====
section
/-! DEFINITION. The statements for the provers, one `def Obligations.<Name> : Prop` each; OBLIGATIONS.json
lists them. A next state is written as an update of the state before, so every field it does not name is
stated unchanged. -/

open Sys2Proof Sys2Proof.Machine

/-! ## Encoding -/

/-- Words written out from R47 to R49 read as the commands they stand for, and the corner cases of R88
read as illegal words. -/
def Obligations.DecodeReadsSpecWords : Prop :=
  decode 0x1000 = .lstp ∧ decode 0x2300 = .lstl 3 ∧ decode 0x3900 = .get 9 ∧
  decode 0x4106 = .set 1 6 ∧ decode 0x4FFF = .set 15 255 ∧ decode 0x5000 = .dump ∧ decode 0x6000 = .dec ∧
  decode 0x1001 = .illegal 0x1001 ∧ decode 0x1100 = .illegal 0x1100 ∧ decode 0x3080 = .illegal 0x3080 ∧
  decode 0x0000 = .illegal 0x0000 ∧ decode 0x7000 = .illegal 0x7000 ∧ decode 0xFFFF = .illegal 0xFFFF

/-- Decoding the word of a well-formed instruction gives it back, for every instruction and operand. -/
def Obligations.DecodeOfEncodeIsIdentity : Prop := ∀ i : Instr, i.wf = true → decode (encode i) = i

/-- Every word decodes to a well-formed instruction whose word it is. -/
def Obligations.EncodeOfDecodeIsIdentity : Prop :=
  ∀ w : Word, (decode w).wf = true ∧ encode (decode w) = w

/-- R49, row by row: which words are which command, with their operands; the six patterns are disjoint; a
word that matches none is illegal and completes with IllegalCommand and no other effect. -/
def Obligations.DecodeFollowsPatternTable : Prop :=
  (∀ w : Word,
    (decode w = .lstp ↔ w &&& 0xFFFF = 0x1000) ∧
    (∀ p, decode w = .lstl p ↔ w &&& 0xF0FF = 0x2000 ∧ p = w.extractLsb' 8 4) ∧
    (∀ p, decode w = .get p ↔ w &&& 0xF0FF = 0x3000 ∧ p = w.extractLsb' 8 4) ∧
    (∀ p l, decode w = .set p l ↔ w &&& 0xF000 = 0x4000 ∧ p = w.extractLsb' 8 4 ∧ l = w.extractLsb' 0 8) ∧
    (decode w = .dump ↔ w &&& 0xFFFF = 0x5000) ∧
    (decode w = .dec ↔ w &&& 0xFFFF = 0x6000) ∧
    (∀ a b, a ∈ patterns → b ∈ patterns → w &&& a.mask = a.value → w &&& b.mask = b.value → a = b)) ∧
  patterns.map (fun r => (r.mnemonic, r.value, r.mask)) =
    [("LSTP", 0x1000, 0xFFFF), ("LSTL", 0x2000, 0xF0FF), ("GET", 0x3000, 0xF0FF), ("SET", 0x4000, 0xF000),
     ("DUMP", 0x5000, 0xFFFF), ("DEC", 0x6000, 0xFFFF)] ∧
  (∀ (w : Word) (s : State), (∀ r ∈ patterns, w &&& r.mask ≠ r.value) →
    decode w = .illegal w ∧
    exec (decode w) s = .next { s with status := 0x07, resp := [], cmdIdx := s.cmdIdx + 1 })

/-! ## Property registry -/

/-- LSTP answers the six property codes and changes nothing else (R73). -/
def Obligations.LstpListsSixCodes : Prop :=
  ∀ s : State, exec .lstp s =
    .next { s with status := 0x00, resp := [0, 1, 2, 3, 4, 5], cmdIdx := s.cmdIdx + 1 }

/-- LSTL lists the label codes of each of the six properties, and answers UnknownProperty with an empty
list for the codes 6 to 15; P is not touched (R74). -/
def Obligations.LstlListsLabelCodes : Prop :=
  ∀ (p : Nibble) (s : State),
    (∀ n : Nat, [2, 6, 16, 5, 6, 6][p.toNat]? = some n →
      exec (.lstl p) s =
        .next { s with status := 0x00, resp := (List.range n).map (BitVec.ofNat 8), cmdIdx := s.cmdIdx + 1 }) ∧
    (5 < p.toNat →
      exec (.lstl p) s = .next { s with status := 0x01, resp := [], cmdIdx := s.cmdIdx + 1 })

/-- GET answers the code of the label whose value the field holds, for every property and label, whatever
the other bits of the byte are (R75). -/
def Obligations.GetReadsCurrentLabel : Prop :=
  ∀ (q : Property) (c : Fin q.count) (s : State), s.p[q.byteIndex] &&& q.mask = q.value c →
    exec (.get q.code) s =
      .next { s with status := 0x00, resp := [BitVec.ofNat 8 c.val], cmdIdx := s.cmdIdx + 1 }

/-- GET on a field value no label has answers 0xFF with STATUS OK; on a property code 6 to 15 it answers
UnknownProperty and 0xFF (R75). -/
def Obligations.GetAnswersEmptyLabel : Prop :=
  ∀ (p : Nibble) (s : State),
    (∀ q : Property, p = q.code → (∀ c : Fin q.count, s.p[q.byteIndex] &&& q.mask ≠ q.value c) →
      exec (.get p) s = .next { s with status := 0x00, resp := [0xFF], cmdIdx := s.cmdIdx + 1 }) ∧
    (5 < p.toNat →
      exec (.get p) s = .next { s with status := 0x01, resp := [0xFF], cmdIdx := s.cmdIdx + 1 })

/-- LOOKUP is the unique code whose value is the field value, and 0xFF exactly for the unrecognised values
that the spec derives in R77. -/
def Obligations.LookupInvertsValues : Prop :=
  (∀ (q : Property) (c : Fin q.count), lookup q (q.value c) = BitVec.ofNat 8 c.val) ∧
  (∀ (q : Property) (v : Byte), lookup q v = 0xFF ∨ ∃! c : Fin q.count, q.value c = v ∧ lookup q v = BitVec.ofNat 8 c.val) ∧
  (∀ v : Byte, v &&& 0x24 = v → (lookup .powerState v = 0xFF ↔ v = 0x00 ∨ v = 0x04)) ∧
  (∀ v : Byte, v &&& 0x0F = v →
    (lookup .operationMode v = 0xFF ↔ v = 0x00 ∨ v = 0x04 ∨ v = 0x06 ∨ 0x09 ≤ v.toNat)) ∧
  (∀ v : Byte, v &&& 0x0F = v → lookup .temperature v ≠ 0xFF) ∧
  (∀ v : Byte, v &&& 0x07 = v → (lookup .fanSpeed v = 0xFF ↔ v = 0x01 ∨ v = 0x04 ∨ v = 0x06)) ∧
  (∀ v : Byte, v &&& 0x38 = v → (lookup .verticalPosition v = 0xFF ↔ v = 0x00 ∨ v = 0x30)) ∧
  (∀ v : Byte, v &&& 0x0F = v →
    (lookup .horizontalPosition v = 0xFF ↔ v = 0x00 ∨ (0x06 ≤ v.toNat ∧ v.toNat ≤ 0x0E)))

/-- APPLY writes the label's value into the bits of its property's mask and leaves every other bit of that
byte and every other byte, P[12] and P[13] among them; applying the label already present changes nothing. A
successful SET and the reset sequence invoke it, so that all bytes but the tag and the checksum are what it
leaves (R76, with its example). -/
def Obligations.ApplyWritesOnlyItsField : Prop :=
  (∀ (q : Property) (c : Fin q.count) (p : Payload),
    (applyLabel q c p)[q.byteIndex] = (p[q.byteIndex] &&& ~~~q.mask) ||| q.value c ∧
    (applyLabel q c p)[q.byteIndex] &&& q.mask = q.value c ∧
    (applyLabel q c p)[q.byteIndex] &&& ~~~q.mask = p[q.byteIndex] &&& ~~~q.mask ∧
    (∀ j : Fin 14, j ≠ q.byteIndex → (applyLabel q c p)[j] = p[j]) ∧
    (applyLabel q c p)[12] = p[12] ∧ (applyLabel q c p)[13] = p[13] ∧
    (p[q.byteIndex] &&& q.mask = q.value c → applyLabel q c p = p)) ∧
  (∀ p : Payload, p[8] = 0x38 → (applyLabel .fanSpeed ⟨4, by decide⟩ p)[8] = 0x3F) ∧
  (∀ (q : Property) (c : Fin q.count) (s t : State) (j : Fin 14), j ≠ 12 → j ≠ 13 →
    exec (.set q.code (BitVec.ofNat 8 c.val)) s = .next t → t.p[j] = (applyLabel q c s.p)[j]) ∧
  (∀ (c : Config) (j : Fin 14), j ≠ 12 → j ≠ 13 →
    (State.resetWith c).p[j] = (applyLabel .horizontalPosition ⟨0, by decide⟩ (applyLabel .verticalPosition
      ⟨0, by decide⟩ (applyLabel .fanSpeed ⟨0, by decide⟩ (applyLabel .temperature ⟨8, by decide⟩
      (applyLabel .operationMode (defaultModeCode c.defaultMode) (applyLabel .powerState ⟨0, by decide⟩
      #v[0x23, 0xCB, 0x26, 0x01, 0x00, 0, 0, 0, 0, 0, 0, 0, 0, 0]))))))[j])

/-- A masked write changes no other property's field, and a SET of one property leaves what GET answers for
any other: the law the spec derives as R78, for properties on one byte and on different bytes. -/
def Obligations.SetLeavesOtherFields : Prop :=
  ∀ q1 q2 : Property, q1 ≠ q2 →
    (∀ (c : Fin q1.count) (p : Payload),
      (applyLabel q1 c p)[q2.byteIndex] &&& q2.mask = p[q2.byteIndex] &&& q2.mask) ∧
    (∀ (l : Byte) (s t a b : State), exec (.set q1.code l) s = .next t → exec (.get q2.code) s = .next a →
      exec (.get q2.code) t = .next b → b.resp = a.resp ∧ b.status = a.status)

/-- Bits that no property owns: 0 after reset, never written by a command, so that in every state that
meets the invariant P[9] and P[10] are 0, P[5] is 0x20 or 0x24, and P[8] is a fan value or'd with a vertical
value: what the spec derives as R79. -/
def Obligations.UnownedBitsStayClear : Prop :=
  (∀ c : Config, unownedClear (State.resetWith c).p) ∧
  (∀ (i : Instr) (s t : State) (j : Fin 14), exec i s = .next t → 5 ≤ j.val → j.val ≤ 11 →
    t.p[j] &&& ~~~ownedBits j = s.p[j] &&& ~~~ownedBits j) ∧
  (∀ s : State, Inv s →
    s.p[9] = 0x00 ∧ s.p[10] = 0x00 ∧ (s.p[5] = 0x20 ∨ s.p[5] = 0x24) ∧
    ∃ (f : Fin (Property.count .fanSpeed)) (v : Fin (Property.count .verticalPosition)),
      s.p[8] = Property.value .fanSpeed f ||| Property.value .verticalPosition v)

/-! ## Checksum -/

/-- CKSUM is the sum of B[0..12] modulo 256, of a sum that is at most 3315; B[13] is never read; two payloads
that differ only in the tag B[12] have different checksums; the reset bytes sum to 0x188. A successful SET,
a successful DEC and the reset sequence invoke it: P[13], and byte 13 of the decoded payload, are it (R81). -/
def Obligations.ChecksumSumsThirteenBytes : Prop :=
  (∀ b : Payload,
    (cksum b).toNat = (b[0].toNat + b[1].toNat + b[2].toNat + b[3].toNat + b[4].toNat + b[5].toNat +
      b[6].toNat + b[7].toNat + b[8].toNat + b[9].toNat + b[10].toNat + b[11].toNat + b[12].toNat) % 256 ∧
    byteSum b ≤ 3315 ∧ (∀ v : Byte, cksum (b.set 13 v) = cksum b) ∧
    (∀ v : Byte, v ≠ b[12] → cksum (b.set 12 v) ≠ cksum b)) ∧
  (∀ v : Byte,
    byteSum #v[0x23, 0xCB, 0x26, 0x01, 0x00, 0x20, 0x05, 0x07, 0x38, 0x00, 0x00, 0x0F, 0x00, v] = 0x188 ∧
    cksum #v[0x23, 0xCB, 0x26, 0x01, 0x00, 0x20, 0x05, 0x07, 0x38, 0x00, 0x00, 0x0F, 0x00, v] = 0x88) ∧
  (∀ (p : Nibble) (l : Byte) (s t : State), exec (.set p l) s = .next t → t.status = 0x00 →
    t.p[13] = cksum t.p) ∧
  (∀ s t : State, exec .dec s = .next t → t.status = 0x00 → ∃ a : Payload, t.rxp = some a ∧ a[13] = cksum a) ∧
  (∀ c : Config, (State.resetWith c).p[13] = cksum (State.resetWith c).p)

/-- What the checksum detects and what it does not, as the spec derives it (R83): a change of one byte of
B[0..12] changes it by that much; a change of B[13] alone breaks it, and the frame of the changed payload
decodes to ChecksumMismatch; two compensating changes are not detected; its value on zeros and on ones. (M1 is
read kind by kind, log entry 21.) -/
def Obligations.ChecksumDetectsSingleByteChanges : Prop :=
  (∀ (b : Payload) (i : Fin 14) (v : Byte), i.val ≤ 12 →
    cksum (b.set i v) = cksum b + (v - b[i]) ∧ (v ≠ b[i] → cksum (b.set i v) ≠ cksum b)) ∧
  (∀ (b : Payload) (v : Byte), b[13] = cksum b → v ≠ b[13] →
    (b.set 13 v)[13] ≠ cksum (b.set 13 v) ∧
    ∀ (m : Matchers) (d : Nat), m.M1 1 → m.M2 →
      decodeFrame m (d :: segments (send (b.set 13 v))) = .error .checksumMismatch) ∧
  (∀ (b : Payload) (i j : Fin 14) (d : Byte), i.val ≤ 12 → j.val ≤ 12 → i ≠ j →
    cksum ((b.set i (b[i] + d)).set j (b[j] - d)) = cksum b) ∧
  (∀ b : Payload, (∀ i : Fin 14, i.val ≤ 12 → b[i] = 0x00) → cksum b = 0x00) ∧
  (∀ b : Payload, (∀ i : Fin 14, i.val ≤ 12 → b[i] = 0xFF) → cksum b = 0xF3)

/-! ## SET -/

/-- SET of a known label with a ready TX primitive: the next state's payload has the label's value in the
property's field, the property's tag in P[12], the sum of the other thirteen bytes in P[13], and every
other byte and every other bit as before; exactly the frame of that payload is appended to TXLOG; STATUS
is OK and RESP empty; nothing else changes (R84). -/
def Obligations.SetWritesFieldTagChecksumAndSends : Prop :=
  ∀ (q : Property) (c : Fin q.count) (s : State), s.txReady = true →
    ∃ x : Payload,
      exec (.set q.code (BitVec.ofNat 8 c.val)) s =
        .next { s with p := x, status := 0x00, resp := [], cmdIdx := s.cmdIdx + 1, txLog := s.txLog ++ send x } ∧
      x[q.byteIndex] = (s.p[q.byteIndex] &&& ~~~q.mask) ||| q.value c ∧
      x[q.byteIndex] &&& q.mask = q.value c ∧
      x[12] = q.tag ∧ x[13] = cksum x ∧
      (∀ i : Fin 14, i ≠ q.byteIndex → i ≠ 12 → i ≠ 13 → x[i] = s.p[i])

/-- A SET that ends with an error is a no-op: P[0..13] and TXLOG are as before the command, and only STATUS,
RESP and CMDIDX change (R86). -/
def Obligations.FailedSetIsNoOp : Prop :=
  ∀ (p : Nibble) (l : Byte) (s t : State), exec (.set p l) s = .next t → t.status ≠ 0x00 →
    t = { s with status := t.status, resp := t.resp, cmdIdx := t.cmdIdx } ∧ t.p = s.p ∧ t.txLog = s.txLog

/-- Which SETs end with an error, and which error: a property code 6 to 15 gives UnknownProperty, before any
look at the label; a label code not below the property's label count gives UnknownLabel (R84, R96, with the
codes the spec chose in D9 and the order it chose in D32). It is so for every state: that a failing SET
completes while the TX primitive is not ready too, with R111(b) broken, is the model's choice (log entries 7
and 18). -/
def Obligations.UnknownOperandsEndSet : Prop :=
  ∀ (p : Nibble) (l : Byte) (s : State),
    (5 < p.toNat →
      exec (.set p l) s = .next { s with status := 0x01, resp := [], cmdIdx := s.cmdIdx + 1 }) ∧
    (∀ n : Nat, [2, 6, 16, 5, 6, 6][p.toNat]? = some n → n ≤ l.toNat →
      exec (.set p l) s = .next { s with status := 0x02, resp := [], cmdIdx := s.cmdIdx + 1 })

/-- A temperature label T from 16 to 31 has code T - 16 and field value 31 - T, and a SET of it leaves that
value in the low four bits of P[7]: the closed form the spec derives as R80. -/
def Obligations.TemperatureFieldDescends : Prop :=
  ∀ (T : Nat) (s : State), 16 ≤ T → T ≤ 31 → s.txReady = true →
    labelOfName .temperature (toString T) = BitVec.ofNat 8 (T - 16) ∧
    ∃ t : State, exec (.set 2 (BitVec.ofNat 8 (T - 16))) s = .next t ∧ t.p[7] &&& 0x0F = BitVec.ofNat 8 (31 - T)

/-- P[12] and P[13] are written by a successful SET alone, and then P[12] is the property's tag and P[13]
the checksum; the reset sequence leaves RESET_TAG and the checksum (R18, R19). -/
def Obligations.TagAndChecksumWrittenOnlyBySet : Prop :=
  (∀ c : Config, (State.resetWith c).p[12] = c.resetTag ∧
    (State.resetWith c).p[13] = cksum (State.resetWith c).p) ∧
  (∀ (i : Instr) (s t : State), exec i s = .next t →
    (∃ q l, i = .set (Property.code q) l ∧ t.status = 0x00 ∧ t.p[12] = q.tag ∧ t.p[13] = cksum t.p) ∨
    (((∀ p l, i ≠ .set p l) ∨ t.status ≠ 0x00) ∧ t.p = s.p))

/-- P[0..4] is PREFIX after reset, no command writes any of the five bytes (R16), and a step keeps them PREFIX.
That it is so after a power-loss step too, while there is no power and the spec says only that no state
survives, is the model's choice: P is then what the next reset sequence writes (log entry 8). -/
def Obligations.PrefixBytesNeverWritten : Prop :=
  (∀ (c : Config) (i : Fin 14), i.val ≤ 4 →
    some (State.resetWith c).p[i] = ([0x23, 0xCB, 0x26, 0x01, 0x00] : List Byte)[i.val]?) ∧
  (∀ (i : Instr) (s t : State) (j : Fin 14), exec i s = .next t → j.val ≤ 4 → t.p[j] = s.p[j]) ∧
  (∀ s t : State, prefixHolds s.p → step s = .next t → prefixHolds t.p)

/-! ## DUMP and illegal words -/

/-- DUMP answers the fourteen payload bytes in index order and changes nothing else (R87). -/
def Obligations.DumpReadsWholePayload : Prop :=
  ∀ s : State, exec .dump s =
    .next { s with
      status := 0x00
      resp := [s.p[0], s.p[1], s.p[2], s.p[3], s.p[4], s.p[5], s.p[6], s.p[7], s.p[8], s.p[9], s.p[10],
        s.p[11], s.p[12], s.p[13]]
      cmdIdx := s.cmdIdx + 1 }

/-- An illegal word, and DEC where the receive path is absent, complete with IllegalCommand and an empty
RESP and change nothing else (R88). That without a receive path 0x6000 is so even while the capture driver
is writing, where R115 refuses a DEC, is the model's choice (log entry 18). -/
def Obligations.IllegalWordsHaveNoEffect : Prop :=
  (∀ (w : Word) (s : State), exec (.illegal w) s =
    .next { s with status := 0x07, resp := [], cmdIdx := s.cmdIdx + 1 }) ∧
  (∀ s : State, s.cfg.rxPresent = false →
    exec .dec s = .next { s with status := 0x07, resp := [], cmdIdx := s.cmdIdx + 1 })

/-! ## Frames -/

/-- Frame bit k is `B[k div 8][7 - (k mod 8)]`: byte 0 first, most significant bit first (R60); and a bit
cell is a mark of 600 and a space of 1100 for a one, 500 for a zero, so that only the space carries the bit
(R59). The decoder uses the same map in reverse. -/
def Obligations.FrameBitsAreMsbFirst : Prop :=
  (∀ (b : Payload) (k : Fin 112),
    (payloadBits b)[k.val]? = some (b[k.val / 8].getLsbD (7 - k.val % 8)) ∧
    (send b)[3 + 2 * k.val]? = some (.mark 600) ∧
    (send b)[4 + 2 * k.val]? = some (.space (if b[k.val / 8].getLsbD (7 - k.val % 8) then 1100 else 500))) ∧
  (∀ b : Payload, (payloadBits b).length = 112 ∧ assemble (payloadBits b) = b)

/-- Bit cell k of a decode becomes bit `7 - (k mod 8)` of byte `k div 8`: in a decoded payload that bit is one
when the cell's space matches ONE_SPACE, and is left zero when it matches ZERO_SPACE. Assembling is the inverse of
the serialisation order (R69). -/
def Obligations.AssemblyInvertsSerialisation : Prop :=
  (∀ (m : Matchers) (cap : List Nat) (a : Payload), decodeFrame m cap = .ok a → ∀ k : Fin 112,
    ∃ g, cap[4 + 2 * k.val]? = some g ∧ a[k.val / 8].getLsbD (7 - k.val % 8) = m.space g 1100 ∧
      (a[k.val / 8].getLsbD (7 - k.val % 8) = false ↔ m.space g 500 = true)) ∧
  (∀ bits : List Bool, bits.length = 112 → ∀ k : Fin 112,
    bits[k.val]? = some ((assemble bits)[k.val / 8].getLsbD (7 - k.val % 8))) ∧
  (∀ b : Payload, assemble (payloadBits b) = b)

/-- The layout of a frame: 228 events, the carrier first, then 227 segments with the durations of R58, the
bit order of R60 and the bit cells of R59; 114 marks and 113 spaces (R65). -/
def Obligations.FrameHasSpecLayout : Prop :=
  ∀ b : Payload,
    (send b).length = 228 ∧ (send b)[0]? = some (.carrier 38) ∧
    (send b)[1]? = some (.mark 3800) ∧ (send b)[2]? = some (.space 1400) ∧
    (∀ k : Fin 112,
      (send b)[3 + 2 * k.val]? = some (.mark 600) ∧
      (send b)[4 + 2 * k.val]? = some (.space (if b[k.val / 8].getLsbD (7 - k.val % 8) then 1100 else 500))) ∧
    (send b)[227]? = some (.mark 600) ∧
    (send b).countP TxEvent.isMark = 114 ∧
    (send b).countP TxEvent.isSpace = 113

/-- The on-air time of a frame with n1 one bits is 129000 + 600 * n1 microseconds, between 129000 and
196200, as the spec derives it (R117). -/
def Obligations.FrameOnAirTime : Prop :=
  (∀ b : Payload, onAirUs (send b) = 129000 + 600 * oneBits b ∧ 129000 ≤ onAirUs (send b) ∧
    onAirUs (send b) ≤ 196200) ∧
  onAirUs (send #v[0x23, 0xCB, 0x26, 0x01, 0x00, 0x24, 0x05, 0x07, 0x38, 0x00, 0x00, 0x0F, 0x04, 0x90]) = 146400

/-- One frame for each successful SET and no event from anything else: every command either is a SET that
ends with OK and appends exactly the frame of the payload it leaves, or leaves TXLOG as it was; reset emits
nothing (R64). -/
def Obligations.OnlySuccessfulSetTransmits : Prop :=
  (∀ c : Config, (State.resetWith c).txLog = []) ∧
  (∀ (i : Instr) (s t : State), exec i s = .next t →
    ((∃ p l, i = .set p l) ∧ t.status = 0x00 ∧ t.txLog = s.txLog ++ send t.p) ∨
    (((∀ p l, i ≠ .set p l) ∨ t.status ≠ 0x00) ∧ t.txLog = s.txLog))

/-! ## DEC -/

/-- DEC of a complete record of at least 228 entries whose header matches and whose bit cells read as the
bits of a payload with a correct checksum: RXP, RX_VALID, RX_TAG and RX_TAG_VALID are written, RESP is the
payload and the valid flag, and nothing else changes, P included. The payload is not checked beyond its
checksum (R68, R70(e), R91). -/
def Obligations.DecSucceedsOnMatchingCapture : Prop :=
  ∀ (s : State) (a : Payload), s.cfg.rxPresent = true → s.capComplete = true → 228 ≤ s.cap.length →
    headerReads (matchersOf s.cfg) s.cap →
    (∀ k : Fin 112, cellReads (matchersOf s.cfg) s.cap k.val (a[k.val / 8].getLsbD (7 - k.val % 8))) →
    a[13] = cksum a →
    exec .dec s =
      .next { s with
        status := 0x00
        resp := a.toList ++ [if a[12] ∈ ([0x04, 0x08, 0x09, 0x0C, 0x0D, 0x10, 0x14, 0x18, 0x19, 0x1C, 0x1D, 0x24] : List Byte) then 1 else 0]
        rxp := some a
        rxValid := true
        rxTag := some a[12]
        rxTagValid := decide (a[12] ∈ ([0x04, 0x08, 0x09, 0x0C, 0x0D, 0x10, 0x14, 0x18, 0x19, 0x1C, 0x1D, 0x24] : List Byte))
        cmdIdx := s.cmdIdx + 1 }

/-- The checks of DEC in their order: a short record; a header that does not match; the lowest failing bit
cell; a checksum that does not hold. Each gives its code, an empty RESP, and no other change (R68, R96). -/
def Obligations.DecReportsFirstFailingCheck : Prop :=
  ∀ s : State, s.cfg.rxPresent = true → s.capComplete = true →
    (s.cap.length < 228 →
      exec .dec s = .next { s with status := 0x03, resp := [], cmdIdx := s.cmdIdx + 1 }) ∧
    (228 ≤ s.cap.length → ¬ headerReads (matchersOf s.cfg) s.cap →
      exec .dec s = .next { s with status := 0x04, resp := [], cmdIdx := s.cmdIdx + 1 }) ∧
    (∀ k : Fin 112, 228 ≤ s.cap.length → headerReads (matchersOf s.cfg) s.cap →
      (∀ j : Fin 112, j < k → ∃ bit, cellReads (matchersOf s.cfg) s.cap j.val bit) →
      cellFails (matchersOf s.cfg) s.cap k.val →
      exec .dec s = .next { s with status := 0x05, resp := [], cmdIdx := s.cmdIdx + 1 }) ∧
    (∀ a : Payload, 228 ≤ s.cap.length → headerReads (matchersOf s.cfg) s.cap →
      (∀ k : Fin 112, cellReads (matchersOf s.cfg) s.cap k.val (a[k.val / 8].getLsbD (7 - k.val % 8))) →
      a[13] ≠ cksum a →
      exec .dec s = .next { s with status := 0x06, resp := [], cmdIdx := s.cmdIdx + 1 })

/-- A DEC that fails changes only STATUS, RESP and CMDIDX: the record and RXP, RX_VALID, RX_TAG,
RX_TAG_VALID and P keep their values (R71). -/
def Obligations.FailedDecKeepsReceiveState : Prop :=
  ∀ s t : State, exec .dec s = .next t → t.status ≠ 0x00 →
    t = { s with status := t.status, resp := [], cmdIdx := s.cmdIdx + 1 }

/-- DEC never looks at CAP[0], CAP[227] or the entries from 228 on (R70(b), (c)): two records of at least 228
entries that agree on entries 1 to 226 decode alike under any matchers; and DEC ends alike, but for the
record itself, in two states that differ only in such records. -/
def Obligations.DecIgnoresUnreadEntries : Prop :=
  (∀ (m : Matchers) (x y : List Nat), 228 ≤ x.length → 228 ≤ y.length →
    (∀ j : Nat, 1 ≤ j → j ≤ 226 → x[j]? = y[j]?) → decodeFrame m x = decodeFrame m y) ∧
  (∀ (s : State) (y : List Nat), 228 ≤ s.cap.length → 228 ≤ y.length →
    (∀ j : Nat, 1 ≤ j → j ≤ 226 → s.cap[j]? = y[j]?) →
    (∀ t, exec .dec s = .next t → exec .dec { s with cap := y } = .next { t with cap := y }) ∧
    (∀ r, exec .dec s = .refused r → exec .dec { s with cap := y } = .refused r))

/-- The round-trip law the spec derives as R72: under any matchers that meet M1 and M2 with RAW_TICK_US = 1,
the record of one entry followed by the durations of the segments of SEND(B) decodes to B whenever B's
checksum holds; a DEC of it completes with OK and RXP = B; and every payload a SET sends meets the premise.
(M1 is read kind by kind, marks at the mark durations and spaces at the space durations alone: log entry 21.
It asks less of the matchers than M1 at all five values, so the law is the stronger for it.) -/
def Obligations.SendThenDecRoundTrip : Prop :=
  (∀ (m : Matchers) (b : Payload) (d : Nat), m.M1 1 → m.M2 → b[13] = cksum b →
    decodeFrame m (d :: segments (send b)) = .ok b) ∧
  (∀ (s : State) (b : Payload) (d : Nat), configOk s.cfg = true → s.cfg.rawTickUs = 1 →
    s.cfg.rxPresent = true → s.capComplete = true → b[13] = cksum b → s.cap = d :: segments (send b) →
    s.cap.length = 228 ∧
    ∃ t : State, exec .dec s = .next t ∧ t.status = 0x00 ∧ t.rxp = some b ∧ t.p = s.p) ∧
  (∀ (q : Property) (c : Fin q.count) (p : Payload), (setPayload q c p)[13] = cksum (setPayload q c p))

/-- The matchers (R66): the default formula; its windows at TOL_PCT = 25; every configuration the machine runs
meets M1 and M2; and with a tick of one microsecond the default meets M2 exactly when TOL_PCT is at most 37.
(M1 is read kind by kind, log entry 21.) -/
def Obligations.MatchersMeetSpecConditions : Prop :=
  (∀ tol tick d e : Nat, toleranceMatch tol tick d e = true ↔
    e * (100 - tol) ≤ 100 * d * tick ∧ 100 * d * tick ≤ e * (100 + tol)) ∧
  (∀ c : Config, c.matcher = .tolerance 25 → c.rawTickUs = 1 → ∀ d : Nat,
    ((matchersOf c).mark d 3800 = true ↔ 2850 ≤ d ∧ d ≤ 4750) ∧
    ((matchersOf c).space d 1400 = true ↔ 1050 ≤ d ∧ d ≤ 1750) ∧
    ((matchersOf c).mark d 600 = true ↔ 450 ≤ d ∧ d ≤ 750) ∧
    ((matchersOf c).space d 1100 = true ↔ 825 ≤ d ∧ d ≤ 1375) ∧
    ((matchersOf c).space d 500 = true ↔ 375 ≤ d ∧ d ≤ 625)) ∧
  (∀ c : Config, configOk c = true → (matchersOf c).M1 c.rawTickUs ∧ (matchersOf c).M2) ∧
  (∀ tol : Nat, tol ≤ 100 → ((⟨toleranceMatch tol 1, toleranceMatch tol 1⟩ : Matchers).M2 ↔ tol ≤ 37))

/-- RXP, RX_VALID, RX_TAG and RX_TAG_VALID are written by a successful DEC alone, all fourteen bytes at
once, with RX_TAG = RXP[12]; RX_VALID, once set, no command clears (R26, R27). -/
def Obligations.ReceiveRegistersWrittenOnlyBySuccessfulDec : Prop :=
  ∀ (i : Instr) (s t : State), exec i s = .next t →
    ((i = .dec ∧ t.status = 0x00 ∧
      ∃ a : Payload, t.rxp = some a ∧ t.rxValid = true ∧ t.rxTag = some a[12] ∧ t.rxTagValid = tagKnown a[12] ∧
        t.resp = a.toList ++ [if t.rxTagValid then 1 else 0]) ∨
     ((i ≠ .dec ∨ t.status ≠ 0x00) ∧ t.rxp = s.rxp ∧ t.rxValid = s.rxValid ∧ t.rxTag = s.rxTag ∧
      t.rxTagValid = s.rxTagValid)) ∧
    (s.rxValid = true → t.rxValid = true)

/-- While RX_VALID = 0 a read of any RXP[i] or of RX_TAG faults; it is so after reset, with every
configuration; and after a successful DEC the reads give the decoded bytes (R33). -/
def Obligations.ReceiveReadsFaultUntilFirstDec : Prop :=
  (∀ (s : State) (i : Fin 14), s.rxValid = false →
    readRxp s i = .error .rxHoldsNoValue ∧ readRxTag s = .error .rxHoldsNoValue) ∧
  (∀ c : Config, (State.resetWith c).rxValid = false ∧ (State.resetWith c).rxp = none ∧
    (State.resetWith c).rxTag = none) ∧
  (∀ s t : State, exec .dec s = .next t → t.status = 0x00 →
    ∃ a : Payload, t.rxp = some a ∧ (∀ i : Fin 14, readRxp t i = .ok a[i]) ∧ readRxTag t = .ok a[12])

/-- INTERPRET (R91, and R93 as the spec derives it) writes RX_TAG as received and RX_TAG_VALID as membership in the twelve tags, and nothing
else; a tag outside them yields no record, a tag among them its name; every tag a SET can send is among
them. -/
def Obligations.InterpretClassifiesTags : Prop :=
  (∀ (t : Byte) (s : State), interpret t s =
    { s with
      rxTag := some t
      rxTagValid := decide (t ∈ ([0x04, 0x08, 0x09, 0x0C, 0x0D, 0x10, 0x14, 0x18, 0x19, 0x1C, 0x1D, 0x24] : List Byte)) }) ∧
  (∀ (t : Byte) (s : State),
    t ∉ ([0x04, 0x08, 0x09, 0x0C, 0x0D, 0x10, 0x14, 0x18, 0x19, 0x1C, 0x1D, 0x24] : List Byte) →
    diagnosticRecord (interpret t s) = none) ∧
  (∀ s : State,
    [0x04, 0x08, 0x09, 0x0C, 0x0D, 0x10, 0x14, 0x18, 0x19, 0x1C, 0x1D, 0x24].map
        (fun t => diagnosticRecord (interpret t s)) =
      ["on/off", "operation", "operationMode", "fanspeed", "fanSpeed", "temp_down", "temp_up", "vertical",
        "verticalPosition", "horizontal", "horizontalPosition", "sleep"].map some) ∧
  (∀ q : Property, tagKnown q.tag = true)

/-! ## Whole-machine rules -/

/-- Every command that completes advances CMDIDX by one, whatever its status; it is 0 after reset; and no
command reads it: with another CMDIDX the same command gives the same next state but for CMDIDX (R28, the
spec's decision D34). -/
def Obligations.CommandIndexCountsCommands : Prop :=
  (∀ c : Config, (State.resetWith c).cmdIdx = 0) ∧
  (∀ (i : Instr) (s t : State), exec i s = .next t →
    t.cmdIdx = s.cmdIdx + 1 ∧
    ∀ n : Nat, exec i { s with cmdIdx := n } = .next { t with cmdIdx := n + 1 })

/-- STATUS and RESP of each command (R52, R94): which codes it can end with, and what RESP then holds. -/
def Obligations.ResponseFollowsStatus : Prop :=
  ∀ (i : Instr) (s t : State), exec i s = .next t →
    t.status.toNat ≤ 7 ∧
    match i with
    | .lstp => t.status = 0x00 ∧ t.resp = [0, 1, 2, 3, 4, 5]
    | .lstl p =>
      (∃ q, p = Property.code q ∧ t.status = 0x00 ∧ t.resp = (List.range q.count).map (BitVec.ofNat 8)) ∨
      (5 < p.toNat ∧ t.status = 0x01 ∧ t.resp = [])
    | .get p =>
      (∃ q, p = Property.code q ∧ t.status = 0x00 ∧ t.resp = [lookup q (s.p[q.byteIndex] &&& q.mask)]) ∨
      (5 < p.toNat ∧ t.status = 0x01 ∧ t.resp = [0xFF])
    | .set p _ => (t.status = 0x00 ∨ (5 < p.toNat ∧ t.status = 0x01) ∨ (p.toNat ≤ 5 ∧ t.status = 0x02)) ∧ t.resp = []
    | .dump => t.status = 0x00 ∧ t.resp = s.p.toList
    | .dec =>
      (t.status = 0x00 ∧ ∃ a : Payload, t.rxp = some a ∧ t.resp = a.toList ++ [if t.rxTagValid then 1 else 0] ∧
        t.resp.length = 15) ∨
      ((t.status = 0x03 ∨ t.status = 0x04 ∨ t.status = 0x05 ∨ t.status = 0x06 ∨
        (s.cfg.rxPresent = false ∧ t.status = 0x07)) ∧ t.resp = [])
    | .illegal _ => t.status = 0x07 ∧ t.resp = []

/-- No command touches what is not the block's: the capture record, the platform's readiness, the
configuration and what the outside world does next (R36, R71, R111(d)). -/
def Obligations.CommandsLeavePlatformState : Prop :=
  ∀ (i : Instr) (s t : State), exec i s = .next t →
    t.cap = s.cap ∧ t.capComplete = s.capComplete ∧ t.txReady = s.txReady ∧ t.resetDone = s.resetDone ∧
    t.cfg = s.cfg ∧ t.inputs = s.inputs

/-- Only DEC reads the capture space: any other command gives the same next state, but for the record,
whatever the record is and whether or not it is complete (R35, R40, R44). -/
def Obligations.OnlyDecReadsCapture : Prop :=
  ∀ (i : Instr) (s t : State) (cap : List Nat) (complete : Bool), i ≠ .dec → exec i s = .next t →
    exec i { s with cap := cap, capComplete := complete } = .next { t with cap := cap, capComplete := complete }

/-- A command is never a trap and is refused only where a duty of R111 to R115 is broken: a SET that would
transmit with the TX primitive not ready, a DEC of a record the driver is still writing (R8, R97). The
model's choices in it: that of the SETs only one that would transmit is refused (log entries 7 and 18), and
that an unfinished record is no ground for a refusal where the receive path is absent (log entry 18). -/
def Obligations.CommandsRefusedOnlyForBrokenDuties : Prop :=
  ∀ (i : Instr) (s : State),
    (∀ r, exec i s ≠ .fault r) ∧
    (∀ r, exec i s = .refused r →
      (r = .captureUnstable ∧ i = .dec ∧ s.cfg.rxPresent = true ∧ s.capComplete = false) ∨
      (r = .txPrimitiveNotReady ∧ s.txReady = false ∧
        ∃ (q : Property) (c : Fin q.count), i = .set q.code (BitVec.ofNat 8 c.val)))

/-- The two commands that have no step where a host duty is broken: a DEC of a record the capture driver is
still writing, whatever the record holds (R115); and a SET that would transmit while the TX primitive is not
ready (R8 with R111(b); that it is the transmission that is refused is the model's choice, log entry 7). -/
def Obligations.BrokenDutiesAreRefused : Prop :=
  (∀ s : State, s.cfg.rxPresent = true → s.capComplete = false → exec .dec s = .refused .captureUnstable) ∧
  (∀ (q : Property) (c : Fin q.count) (s : State), s.txReady = false →
    exec (.set q.code (BitVec.ofNat 8 c.val)) s = .refused .txPrimitiveNotReady)

/-! ## Reset, configuration and steps -/

/-- The payload after reset, for both DEFAULT_MODE_CODE values and every RESET_TAG, as the spec derives it
(R110). The default parameter values are the spec's decisions D11 and D12. -/
def Obligations.ResetPayloadIsSpecs : Prop :=
  (∀ c : Config, (State.resetWith c).p =
    #v[0x23, 0xCB, 0x26, 0x01, 0x00, 0x20, (match c.defaultMode with | .off => 0x05 | .auto => 0x08), 0x07, 0x38,
      0x00, 0x00, 0x0F, c.resetTag,
      BitVec.ofNat 8 (0x188 - 0x05 + (match c.defaultMode with | .off => 5 | .auto => 8) + c.resetTag.toNat)]) ∧
  State.reset.p = #v[0x23, 0xCB, 0x26, 0x01, 0x00, 0x20, 0x05, 0x07, 0x38, 0x00, 0x00, 0x0F, 0x00, 0x88] ∧
  (State.resetWith { Config.standard with defaultMode := .auto }).p =
    #v[0x23, 0xCB, 0x26, 0x01, 0x00, 0x20, 0x08, 0x07, 0x38, 0x00, 0x00, 0x0F, 0x00, 0x8B]

/-- The rest of the state after reset (R109): STATUS, RESP, the receive flags, CMDIDX and TXLOG are
cleared, RXP and RX_TAG have no value. -/
def Obligations.ResetClearsInterfaceState : Prop :=
  ∀ c : Config,
    (State.resetWith c).status = 0x00 ∧ (State.resetWith c).resp = [] ∧ (State.resetWith c).rxValid = false ∧
    (State.resetWith c).rxTagValid = false ∧ (State.resetWith c).cmdIdx = 0 ∧ (State.resetWith c).txLog = [] ∧
    (∀ i, readRxp (State.resetWith c) i = .error .rxHoldsNoValue) ∧
    readRxTag (State.resetWith c) = .error .rxHoldsNoValue

/-- Power-up runs the reset sequence and no state survives: two blocks with the same configuration, the
same capture space and the same inputs to come are in the same state after it (R104, R105). The model's
choices in it: that the capture space and the inputs stay, and that a block that is running is reset by a
power-up with no power loss before it too (log entry 8); that the TX primitive is ready after it whatever
its readiness was (log entry 7). -/
def Obligations.PowerUpForgetsEverything : Prop :=
  ∀ (s s' : State) (rest : List Input), configOk s.cfg = true → s'.cfg = s.cfg → s'.cap = s.cap →
    s'.capComplete = s.capComplete → s.inputs = .powerUp :: rest → s'.inputs = .powerUp :: rest →
    step s = step s' ∧
    step s = .next { State.resetWith s.cfg with cap := s.cap, capComplete := s.capComplete, inputs := rest }

/-- A command issued before the reset sequence has completed has no step (R112, a duty of the host in section
2 of 70_reset_and_hazards.md; the list of inputs it is the head of is the model's form, log entry 1). -/
def Obligations.CommandBeforeResetIsRefused : Prop :=
  ∀ (s : State) (w : Word) (rest : List Input), configOk s.cfg = true → s.resetDone = false →
    s.inputs = .command w :: rest → step s = .refused .commandBeforeReset

/-- A configuration outside the spec is refused, not run: a tolerance over 37 percent, the bound of R4, or a
substitute matcher that breaks M1 or M2 (R112; that every step of it is refused, an idle one too, is the
model's choice, log entry 17). M1 is read kind by kind (log entry 21). -/
def Obligations.ConfigurationOutsideSpecIsRefused : Prop :=
  (∀ (s : State) (tol : Nat), s.cfg.matcher = .tolerance tol → 37 < tol →
    step s = .refused .configurationOutsideSpec) ∧
  (∀ (s : State) (w : Windows), s.cfg.matcher = .windows w →
    ¬ ((matchersOf s.cfg).M1 s.cfg.rawTickUs ∧ (matchersOf s.cfg).M2) →
    step s = .refused .configurationOutsideSpec)

/-- A step runs the decoded command: when the next input is a command word, the step is the meaning of
what the word decodes to, in the state with that input taken; the decoded instruction is well formed. (The
list of inputs is the model's form, log entry 1.) -/
def Obligations.StepRunsDecodedCommand : Prop :=
  ∀ (s : State) (w : Word) (rest : List Input), configOk s.cfg = true → s.resetDone = true →
    s.inputs = .command w :: rest →
    step s = exec (decode w) { s with inputs := rest } ∧ (decode w).wf = true

/-- What the inputs do that are neither a command nor power-up (PowerUpForgetsEverything states power-up).
With no input the block is quiescent. A record that fits is left in the capture space and nothing else
changes; one that does not fit is refused. The TX primitive's readiness changes and nothing else. On power
loss the block stops taking commands and all its state is gone (R104); the capture space, the TX primitive's
readiness and the configuration stay. All of this but the driver's write and the loss itself is the model's
choice: that these are steps of their own (log entry 1), the idle step (2), what the registers hold after
power loss, which is what the next reset sequence writes (8), the refusal and the whole replacement of the
record (9), and that a record and the TX primitive leave STATUS, RESP and CMDIDX as they are (14). -/
def Obligations.PlatformInputsChangeOnlyTheirState : Prop :=
  ∀ (s : State) (rest : List Input), configOk s.cfg = true →
    (s.inputs = [] → step s = .next s) ∧
    (∀ record complete, s.inputs = .capture record complete :: rest → record.length ≤ s.cfg.capMax →
      (∀ d ∈ record, d < 2 ^ s.cfg.rawWidth) →
      step s = .next { s with cap := record, capComplete := complete, inputs := rest }) ∧
    (∀ record complete, s.inputs = .capture record complete :: rest →
      (s.cfg.capMax < record.length ∨ ∃ d ∈ record, 2 ^ s.cfg.rawWidth ≤ d) →
      step s = .refused .captureDoesNotFit) ∧
    (∀ ready, s.inputs = .txPrimitive ready :: rest → step s = .next { s with txReady := ready, inputs := rest }) ∧
    (s.inputs = .powerLoss :: rest →
      step s = .next { State.resetWith s.cfg with
        cap := s.cap, capComplete := s.capComplete, txReady := s.txReady, resetDone := false, inputs := rest })

/-- No step faults, and no step changes the configuration (R97, R111(d)). -/
def Obligations.StepNeverFaultsNorReconfigures : Prop :=
  ∀ s : State, (∀ r, step s ≠ .fault r) ∧ ∀ t, step s = .next t → t.cfg = s.cfg

/-- The invariant holds after reset, with every configuration: the invariants the spec derives in R90 (that
the capture space is empty after reset is the model's choice, log entry 5). -/
def Obligations.ResetMeetsInv : Prop := ∀ c : Config, Inv (State.resetWith c)

/-- Every step keeps the invariant, from every state that meets it, not only from reset: the invariants the
spec derives in R90, with the bound on STATUS, the coherence of the receive registers, and that the capture
record fits its space (log entry 9). R90 speaks of command boundaries after reset; that the invariant holds
after a power-loss step too is the model's choice: the registers then hold what the next reset sequence
writes (log entry 8). -/
def Obligations.StepKeepsInv : Prop := ∀ s t : State, Inv s → step s = .next t → Inv t

/-- A list of SETs of known labels runs to its end, one step each, and TXLOG gains exactly one frame for
each of them in the order they were issued, each frame the payload as its SET left it (R42; the list of
inputs is the model's form, log entry 1). -/
def Obligations.SetsTransmitInIssueOrder : Prop :=
  ∀ (sets : List ((q : Property) × Fin q.count)) (s : State) (rest : List Input), s.running →
    s.txReady = true → s.inputs = setWords sets ++ rest →
    ∃ t : State, Host.Core.run Sys2Proof.core sets.length s = .next t ∧
      t.txLog = s.txLog ++ (setPayloads s.p sets).flatMap send ∧
      t.p = (s.p :: setPayloads s.p sets).getLast (by simp) ∧
      t.cmdIdx = s.cmdIdx + sets.length ∧ t.inputs = rest

/-! ## String layer -/

/-- Property names map to codes by exact match, any other string to 0xF, and LSTP's codes map back to the
names in order (R54). -/
def Obligations.PropertyNamesMapExactly : Prop :=
  (∀ (name : String) (q : Property), propOfName name = q.code ↔ name = q.name) ∧
  (∀ name : String, (∀ q : Property, name ≠ q.name) → propOfName name = 0xF) ∧
  ([0, 1, 2, 3, 4, 5].map propertyText =
    ["powerState", "operationMode", "temperature", "fanSpeed", "verticalPosition", "horizontalPosition"].map some)

/-- Label strings map to codes exactly as R55 says: the canonical label; for powerState also "OFF" and
"ON"; for temperature also the label with ".0"; every other string is 0xFF. -/
def Obligations.LabelStringsMapExactly : Prop :=
  ∀ (q : Property) (text : String),
    (∀ c : Fin q.count, labelOfName q text = BitVec.ofNat 8 c.val ↔
      text = (q.labels.get c).1 ∨ (q = .powerState ∧ ((text = "OFF" ∧ c.val = 0) ∨ (text = "ON" ∧ c.val = 1))) ∨
      (q = .temperature ∧ text = (q.labels.get c).1 ++ ".0")) ∧
    ((∀ c : Fin q.count, labelOfName q text ≠ BitVec.ofNat 8 c.val) → labelOfName q text = 0xFF)

/-- The text of a label code reads back as that code, and no alias is ever returned (R56). -/
def Obligations.LabelTextsAreCanonical : Prop :=
  (∀ (q : Property) (c : Fin q.count),
    labelText q (BitVec.ofNat 8 c.val) = some (q.labels.get c).1 ∧
    labelOfName q (q.labels.get c).1 = BitVec.ofNat 8 c.val) ∧
  (∀ q : Property, labelText q 0xFF = some "")

/-- Every assembler line of the table V3 of 95_test_vectors.md gives the word the table lists, and "SET
Temperature, 24" a SET of PROP 0xF, whose label V3 leaves open and the model sets to 0xFF (log entry 12).
Three lines more, LSTP, DUMP and DEC, which V3 does not list, give the words R57 and R49 give them. The line
with two spaces rests on the spacing convention of log entry 12. (V3's rows on the text of a response are no
assembler lines.) -/
def Obligations.AssemblerGivesSpecWords : Prop :=
  assembleLine "SET powerState, ON" = some 0x4001 ∧ assembleLine "SET powerState, on" = some 0x4001 ∧
  assembleLine "SET powerState, Off" = some 0x40FF ∧
  assembleLine "SET operationMode, off" = some 0x4105 ∧ assembleLine "SET operationMode, OFF" = some 0x41FF ∧
  assembleLine "SET operationMode, auto" = some 0x41FF ∧
  assembleLine "SET temperature, 24.0" = some 0x4208 ∧ assembleLine "SET temperature, 24.00" = some 0x42FF ∧
  assembleLine "SET temperature, 24.5" = some 0x42FF ∧ assembleLine "SET temperature,  24" = some 0x42FF ∧
  assembleLine "SET temperature, 15" = some 0x42FF ∧ assembleLine "SET temperature, 32" = some 0x42FF ∧
  assembleInstr "SET Temperature, 24" = some (.set 0xF 0xFF) ∧
  assembleLine "GET fanSpeed" = some 0x3300 ∧ assembleLine "LSTL 3" = some 0x2300 ∧
  assembleLine "SET horizontalPosition, #5" = some 0x4505 ∧
  assembleLine "LSTP" = some 0x1000 ∧ assembleLine "DUMP" = some 0x5000 ∧ assembleLine "DEC" = some 0x6000

/-! ## Power loss -/

/-- No state of the block survives loss of power (R104): two blocks that agree on the configuration, on the
capture space and the TX primitive, which are not the block's, and on the inputs to come are in the same state
after it, whatever their registers held; RXP and RX_TAG can then not be read; and every command is refused
until the reset sequence of a power-up has run. (What the other registers hold in that time is the model's
choice, log entry 8, and this says only that it does not depend on what they held.) -/
def Obligations.PowerLossForgetsEverything : Prop :=
  ∀ (s s' : State) (rest : List Input), configOk s.cfg = true → s'.cfg = s.cfg → s'.cap = s.cap →
    s'.capComplete = s.capComplete → s'.txReady = s.txReady → s.inputs = .powerLoss :: rest →
    s'.inputs = .powerLoss :: rest →
    ∃ t : State, step s = .next t ∧ step s' = .next t ∧ t.resetDone = false ∧
      (∀ i : Fin 14, readRxp t i = .error .rxHoldsNoValue) ∧ readRxTag t = .error .rxHoldsNoValue ∧
      (∀ (w : Word) (rest' : List Input), rest = .command w :: rest' → step t = .refused .commandBeforeReset)
end

