-- ==== Sys2Proof/Laws/Rom.lean ====
section
/-! SUPPORT. Facts about the constant tables (R20 to R22) and the operand readers (R50, R51). -/

namespace Sys2Proof.Machine

@[simp] theorem propOperand_code (q : Property) : propOperand q.code = some q := by cases q <;> rfl

theorem propOperand_eq_none_iff (p : Nibble) : propOperand p = none ↔ 5 < p.toNat := by
  revert p; decide

theorem propOperand_eq_some_iff (p : Nibble) (q : Property) : propOperand p = some q ↔ p = q.code := by
  revert p; cases q <;> decide

theorem code_injective : ∀ a b : Property, a.code = b.code → a = b := by
  intro a b; cases a <;> cases b <;> decide

/-- No property has more than 16 labels (R51). -/
theorem count_le (q : Property) : q.count ≤ 16 := by cases q <;> decide

/-- Every value lies inside its property's mask (R22(a)). -/
theorem value_and_mask (q : Property) (c : Fin q.count) : q.value c &&& q.mask = q.value c := by
  revert c; cases q <;> decide

/-- Different codes of one property have different values (R22(c)). -/
theorem value_injective (q : Property) (c d : Fin q.count) (h : q.value c = q.value d) : c = d := by
  revert c d; cases q <;> decide

/-- Two properties on one byte own disjoint bits (R22(b)). -/
theorem masks_disjoint (a b : Property) (hne : a ≠ b) (hbyte : a.byteIndex = b.byteIndex) :
    a.mask &&& b.mask = 0 := by
  revert hne hbyte; cases a <;> cases b <;> decide

/-- The field bytes are 5 to 11 (R20, R39). -/
theorem byteIndex_range (q : Property) : 5 ≤ q.byteIndex.val ∧ q.byteIndex.val ≤ 11 := by
  cases q <;> decide

theorem mask_owned (q : Property) (i : Fin 14) (h : i = q.byteIndex) :
    (Property.all.filter (fun r => r.byteIndex = i)).contains q = true := by
  subst h; cases q <;> decide

theorem code_toNat (q : Property) (c : Fin q.count) : (BitVec.ofNat 8 c.val).toNat = c.val := by
  have h := count_le q
  have := c.isLt
  simp only [BitVec.toNat_ofNat]
  omega

/-- A label code below the count is known (R51). -/
@[simp] theorem labelOperand_ofNat (q : Property) (c : Fin q.count) :
    labelOperand q (BitVec.ofNat 8 c.val) = some c := by
  simp only [labelOperand, code_toNat, c.isLt, dite_true, Fin.eta]

theorem labelOperand_eq_none_iff (q : Property) (l : Byte) : labelOperand q l = none ↔ q.count ≤ l.toNat := by
  simp only [labelOperand]
  split <;> simp <;> omega

theorem labelOperand_eq_some_iff (q : Property) (l : Byte) (c : Fin q.count) :
    labelOperand q l = some c ↔ l = BitVec.ofNat 8 c.val := by
  constructor
  · intro h
    simp only [labelOperand] at h
    split at h
    · cases h; simp
    · cases h
  · rintro rfl; simp

/-- LOOKUP of a label's value is its code (R77). -/
@[simp] theorem lookup_value (q : Property) (c : Fin q.count) :
    lookup q (q.value c) = BitVec.ofNat 8 c.val := by
  revert c; cases q <;> decide

/-- LOOKUP answers 0xFF exactly on the values no label has (R77). -/
theorem lookup_eq_noLabel (q : Property) (v : Byte) (h : ∀ c : Fin q.count, v ≠ q.value c) :
    lookup q v = noLabel := by
  simp only [lookup]
  split
  · next c hc =>
    obtain ⟨hlt, hv, -⟩ := List.findIdx?_eq_some_iff_getElem.1 hc
    exact absurd (beq_iff_eq.1 hv).symm (h ⟨c, hlt⟩)
  · rfl

theorem noLabel_ne (q : Property) (c : Fin q.count) : BitVec.ofNat 8 c.val ≠ noLabel := by
  intro h
  have h1 := code_toNat q c
  rw [h] at h1
  have := count_le q
  have := c.isLt
  simp [noLabel] at h1
  omega

end Sys2Proof.Machine
end

