-- ==== Sys2Proof/Laws/Payload.lean ====
section
/-! SUPPORT. What each payload operation does to each byte: the masked write, the tag and checksum steps,
and the checksum itself. -/

namespace Sys2Proof.Machine

theorem writeByte_get (p : Payload) (i j : Fin 14) (v : Byte) :
    (writeByte p i v)[j] = if i = j then v else p[j] := by
  simp only [writeByte, Fin.getElem_fin, Vector.getElem_set, Fin.ext_iff]

theorem writeField_get (q : Property) (v : Byte) (p : Payload) (j : Fin 14) :
    (writeField q v p)[j] =
      if q.byteIndex = j then (p[q.byteIndex] &&& ~~~q.mask) ||| v else p[j] := by
  simp only [writeField, writeByte_get]

/-- Two payloads with the same first thirteen bytes have the same byte sum (R81: B[13] is never read). -/
theorem byteSum_eq (b : Payload) :
    byteSum b = b[0].toNat + (b[1].toNat + (b[2].toNat + (b[3].toNat + (b[4].toNat + (b[5].toNat +
      (b[6].toNat + (b[7].toNat + (b[8].toNat + (b[9].toNat + (b[10].toNat + (b[11].toNat +
        b[12].toNat))))))))))) := by
  obtain ⟨⟨l⟩, hl⟩ := b
  simp only [List.size_toArray] at hl
  match l, hl with
  | [_, _, _, _, _, _, _, _, _, _, _, _, _, _], _ => simp [byteSum, Vector.toList]

theorem byteSum_congr {a b : Payload} (h : ∀ i : Fin 14, i ≠ 13 → a[i] = b[i]) : byteSum a = byteSum b := by
  have e : ∀ n (hn : n < 14), n ≠ 13 → a[n] = b[n] := fun n hn h13 =>
    h ⟨n, hn⟩ (fun heq => h13 (congrArg Fin.val heq))
  simp only [byteSum_eq]
  simp [e]

theorem cksum_congr {a b : Payload} (h : ∀ i : Fin 14, i ≠ 13 → a[i] = b[i]) : cksum a = cksum b := by
  simp only [cksum, byteSum_congr h]

/-- Writing one of the first thirteen bytes changes the byte sum by that byte's change (R83). -/
theorem byteSum_set (b : Payload) (i : Fin 14) (v : Byte) (hi : i.val ≤ 12) :
    byteSum (b.set i v) + b[i].toNat = byteSum b + v.toNat := by
  obtain ⟨n, hn⟩ := i
  simp only at hi
  simp only [byteSum_eq, Fin.getElem_fin]
  interval_cases n <;> simp <;> omega

theorem sealPayload_get_other (t : Byte) (p : Payload) (j : Fin 14) (h12 : j ≠ 12) (h13 : j ≠ 13) :
    (sealPayload t p)[j] = p[j] := by
  simp only [sealPayload, writeByte_get, if_neg (Ne.symm h12), if_neg (Ne.symm h13)]

theorem sealPayload_get_tag (t : Byte) (p : Payload) : (sealPayload t p)[(12 : Fin 14)] = t := by
  simp only [sealPayload, writeByte_get]
  simp

/-- After the tag and checksum steps the checksum byte is the checksum (R82). -/
theorem sealPayload_get_checksum (t : Byte) (p : Payload) :
    (sealPayload t p)[(13 : Fin 14)] = cksum (sealPayload t p) := by
  have h : cksum (sealPayload t p) = cksum (writeByte p 12 t) := by
    apply cksum_congr
    intro i hi
    simp only [sealPayload, writeByte_get, if_neg (Ne.symm hi)]
  rw [h]
  simp only [sealPayload, writeByte_get]
  simp

/-- APPLY, byte by byte (R76). -/
theorem applyLabel_get (q : Property) (c : Fin q.count) (p : Payload) (j : Fin 14) :
    (applyLabel q c p)[j] =
      if q.byteIndex = j then (p[q.byteIndex] &&& ~~~q.mask) ||| q.value c else p[j] :=
  writeField_get q (q.value c) p j

/-- Inside the mask a masked write is the value, outside it the old bits. -/
theorem maskedWrite_and_mask (x m v : Byte) (h : v &&& m = v) : ((x &&& ~~~m) ||| v) &&& m = v := by
  ext i hi
  have := congrArg (fun y : Byte => y[i]) h
  simp only [BitVec.getElem_and] at this
  simp only [BitVec.getElem_and, BitVec.getElem_or, BitVec.getElem_not]
  revert this
  cases x[i] <;> cases m[i] <;> cases v[i] <;> simp

theorem maskedWrite_and_other (x m v k : Byte) (h : v &&& m = v) (hk : m &&& k = 0) :
    ((x &&& ~~~m) ||| v) &&& k = x &&& k := by
  ext i hi
  have h1 := congrArg (fun y : Byte => y[i]) h
  have h2 := congrArg (fun y : Byte => y[i]) hk
  simp only [BitVec.getElem_and] at h1 h2
  simp only [BitVec.getElem_and, BitVec.getElem_or, BitVec.getElem_not]
  revert h1 h2
  cases x[i] <;> cases m[i] <;> cases v[i] <;> cases k[i] <;> simp

/-- APPLY leaves the value in its property's field (R76). -/
theorem fieldValue_applyLabel_same (q : Property) (c : Fin q.count) (p : Payload) :
    fieldValue q (applyLabel q c p) = q.value c := by
  simp only [fieldValue, applyLabel_get, if_true]
  exact maskedWrite_and_mask _ _ _ (value_and_mask q c)

/-- APPLY changes no other property's field (R78). -/
theorem fieldValue_applyLabel_other (q r : Property) (c : Fin q.count) (p : Payload) (h : q ≠ r) :
    fieldValue r (applyLabel q c p) = fieldValue r p := by
  simp only [fieldValue, applyLabel_get]
  split
  · next hb =>
    have : p[r.byteIndex] = p[q.byteIndex] := by simp only [hb]
    rw [this]
    exact maskedWrite_and_other _ _ _ _ (value_and_mask q c) (masks_disjoint q r h hb)
  · rfl

theorem fieldValue_sealPayload (q : Property) (t : Byte) (p : Payload) :
    fieldValue q (sealPayload t p) = fieldValue q p := by
  have h := byteIndex_range q
  simp only [fieldValue]
  rw [sealPayload_get_other] <;> (intro hj; rw [hj] at h; revert h; decide)

end Sys2Proof.Machine
end

