-- ==== Sys2Proof/Laws/Frame.lean ====
section
/-! SUPPORT. What SEND emits and what the decoder reads: the bits of a payload in order, the position of
each event, and one lemma for each way the decoder's cell loop can end. -/

namespace Sys2Proof.Machine

/-- Indexing a concatenation of blocks of one length. -/
theorem getElem?_flatMap_blocks {α β : Type} (f : α → List β) (n : Nat) (hf : ∀ x, (f x).length = n)
    (l : List α) (i j : Nat) (hj : j < n) :
    (l.flatMap f)[n * i + j]? = (l[i]?).bind (fun x => (f x)[j]?) := by
  induction l generalizing i with
  | nil => simp
  | cons x xs ih =>
    cases i with
    | zero => simp [List.flatMap_cons, List.getElem?_append_left, hf, hj]
    | succ i =>
      have h : n * (i + 1) + j = (f x).length + (n * i + j) := by rw [hf, Nat.mul_succ]; omega
      rw [List.flatMap_cons, h, List.getElem?_append_right (Nat.le_add_right _ _)]
      simp [ih]

theorem length_flatMap_blocks {α β : Type} (f : α → List β) (n : Nat) (hf : ∀ x, (f x).length = n)
    (l : List α) : (l.flatMap f).length = l.length * n := by
  induction l with
  | nil => simp
  | cons x xs ih => simp [List.flatMap_cons, hf, ih, Nat.add_mul, Nat.add_comm]

@[simp] theorem length_byteBits (b : Byte) : (byteBits b).length = 8 := rfl

@[simp] theorem length_bitCell (bit : Bool) : (bitCell bit).length = 2 := rfl

/-- A frame has 112 bits (R4, NBITS). -/
@[simp] theorem length_payloadBits (b : Payload) : (payloadBits b).length = 112 := by
  rw [payloadBits, length_flatMap_blocks byteBits 8 length_byteBits]; simp

theorem byteBits_get (x : Byte) (j : Nat) (hj : j < 8) : (byteBits x)[j]? = some (x.getLsbD (7 - j)) := by
  interval_cases j <;> rfl

/-- Frame bit k is `B[k div 8][7 - (k mod 8)]` (R60). -/
theorem payloadBits_get (b : Payload) (k : Fin 112) :
    (payloadBits b)[k.val]? = some (b[k.val / 8].getLsbD (7 - k.val % 8)) := by
  have hk := k.isLt
  have h : k.val = 8 * (k.val / 8) + k.val % 8 := by omega
  have hlt : k.val / 8 < 14 := by omega
  conv_lhs => rw [h]
  rw [payloadBits, getElem?_flatMap_blocks byteBits 8 length_byteBits _ _ _ (Nat.mod_lt _ (by decide))]
  simp [byteBits_get _ _ (Nat.mod_lt k.val (show 0 < 8 by decide)), hlt]

/-- A frame is 228 events (R65). -/
theorem length_send (b : Payload) : (send b).length = 228 := by
  simp only [send, List.length_append, length_flatMap_blocks bitCell 2 length_bitCell, length_payloadBits,
    List.length_cons, List.length_nil]

/-- The events of bit cell k (R58, R59). -/
theorem send_cell (b : Payload) (k : Fin 112) (j : Nat) (hj : j < 2) :
    (send b)[3 + (2 * k.val + j)]? = (bitCell (b[k.val / 8].getLsbD (7 - k.val % 8)))[j]? := by
  have hk := k.isLt
  rw [send, List.append_assoc, List.getElem?_append_right (by simp)]
  rw [List.getElem?_append_left (by
    rw [length_flatMap_blocks bitCell 2 length_bitCell, length_payloadBits]; simp; omega)]
  have h : 3 + (2 * k.val + j) - [TxEvent.carrier carrierKhz, .mark hdrMarkUs, .space hdrSpaceUs].length
      = 2 * k.val + j := by simp
  rw [h, getElem?_flatMap_blocks bitCell 2 length_bitCell _ _ _ hj, payloadBits_get]
  rfl

/-- The durations of a frame's segments, in order (R58). -/
theorem segments_send (b : Payload) :
    segments (send b) = hdrMarkUs :: hdrSpaceUs ::
      ((payloadBits b).flatMap (fun bit => [bitMarkUs, bitSpaceUs bit]) ++ [bitMarkUs]) := by
  have h : ∀ l : List Bool, (l.flatMap bitCell).filterMap TxEvent.duration =
      l.flatMap (fun bit => [bitMarkUs, bitSpaceUs bit]) := by
    intro l
    induction l with
    | nil => rfl
    | cons x xs ih => simp [List.flatMap_cons, bitCell, TxEvent.duration, ih]
  simp only [segments, send, List.filterMap_append, h]
  rfl

/-- A byte assembled from its own bits is the byte (R69). -/
theorem assembleByte_eq (bits : List Bool) (i : Nat) (x : Byte)
    (h : ∀ j, j < 8 → bits.getD (8 * i + j) false = x.getLsbD (7 - j)) : assembleByte bits i = x := by
  simp only [assembleByte, List.foldl_cons, List.foldl_nil, h 0 (by decide), h 1 (by decide), h 2 (by decide),
    h 3 (by decide), h 4 (by decide), h 5 (by decide), h 6 (by decide), h 7 (by decide)]
  clear h
  revert x
  decide +kernel

/-- Bit `7 - j` of an assembled byte is bit `8 i + j` of the frame (R69). -/
theorem assembleByte_bit (bits : List Bool) (i j : Nat) (hj : j < 8) :
    (assembleByte bits i).getLsbD (7 - j) = bits.getD (8 * i + j) false := by
  simp only [assembleByte, List.foldl_cons, List.foldl_nil]
  interval_cases j <;>
  · generalize bits.getD (8 * i + 0) false = b0
    generalize bits.getD (8 * i + 1) false = b1
    generalize bits.getD (8 * i + 2) false = b2
    generalize bits.getD (8 * i + 3) false = b3
    generalize bits.getD (8 * i + 4) false = b4
    generalize bits.getD (8 * i + 5) false = b5
    generalize bits.getD (8 * i + 6) false = b6
    generalize bits.getD (8 * i + 7) false = b7
    clear hj
    revert b0 b1 b2 b3 b4 b5 b6 b7
    decide +kernel

/-- Bits that are the bits of a payload assemble to the payload (R60, R69). -/
theorem assemble_eq (bits : List Bool) (b : Payload)
    (h : ∀ k : Fin 112, bits[k.val]? = some (b[k.val / 8].getLsbD (7 - k.val % 8))) : assemble bits = b := by
  apply Vector.ext
  intro i hi
  simp only [assemble, Vector.getElem_ofFn]
  apply assembleByte_eq
  intro j hj
  have := h ⟨8 * i + j, by omega⟩
  have e1 : (8 * i + j) / 8 = i := by omega
  have e2 : (8 * i + j) % 8 = j := by omega
  simp only [e1, e2] at this
  simp [List.getD, this]

theorem cellValue_of_reads {m : Matchers} {d g : Nat} {bit : Bool} (hm : m.mark d 600 = true)
    (h1 : m.space g 1100 = bit) (h0 : m.space g 500 = !bit) : cellValue m d g = some bit := by
  simp only [cellValue, bitMarkUs, oneSpaceUs, zeroSpaceUs, hm, h1, h0]
  cases bit <;> simp

theorem cellValue_of_fails {m : Matchers} {d g : Nat} (h : m.mark d 600 = false ∨ m.space g 1100 = m.space g 500) :
    cellValue m d g = none := by
  simp only [cellValue, bitMarkUs, oneSpaceUs, zeroSpaceUs]
  rcases h with h | h <;> simp [h]

/-- The cell loop over cells that all read gives their bits (R68 step 3). -/
theorem readCells_ok (m : Matchers) (cap : List Nat) (n k : Nat) (bits : List Bool) (hlen : bits.length = n)
    (h : ∀ j (hj : j < bits.length), cellReads m cap (k + j) bits[j]) : readCells m cap n k = .ok bits := by
  induction n generalizing k bits with
  | zero => simp [List.length_eq_zero_iff.1 hlen, readCells]
  | succ n ih =>
    match bits, hlen with
    | bit :: rest, hlen =>
      obtain ⟨d, g, hd, hg, hm, h1, h0⟩ := h 0 (by simp)
      simp only [Nat.add_zero, List.getElem_cons_zero] at hd hg h1 h0
      have hrest := ih (k + 1) rest (by simpa using hlen) (fun j hj => by
        have := h (j + 1) (by simpa using hj)
        simpa [Nat.add_assoc, Nat.add_comm 1 j] using this)
      simp [readCells, hd, hg, cellValue_of_reads hm h1 h0, hrest]

/-- The cell loop stops at the first failing cell (R70(f)). -/
theorem readCells_fails (m : Matchers) (cap : List Nat) (n k i : Nat) (hi : i < n)
    (hbefore : ∀ j, j < i → ∃ bit, cellReads m cap (k + j) bit) (hbad : cellFails m cap (k + i)) :
    readCells m cap n k = .error .bitCellMismatch := by
  induction i generalizing n k with
  | zero =>
    obtain ⟨n, rfl⟩ : ∃ n', n = n' + 1 := ⟨n - 1, by omega⟩
    obtain ⟨d, g, hd, hg, hf⟩ := hbad
    simp only [Nat.add_zero] at hd hg
    simp [readCells, hd, hg, cellValue_of_fails hf]
  | succ i ih =>
    obtain ⟨n, rfl⟩ : ∃ n', n = n' + 1 := ⟨n - 1, by omega⟩
    obtain ⟨bit, d, g, hd, hg, hm, h1, h0⟩ := hbefore 0 (by omega)
    simp only [Nat.add_zero] at hd hg
    have hrest := ih n (k + 1) (by omega)
      (fun j hj => by
        obtain ⟨b, hb⟩ := hbefore (j + 1) (by omega)
        exact ⟨b, by simpa [Nat.add_assoc, Nat.add_comm 1 j] using hb⟩)
      (by simpa [Nat.add_assoc, Nat.add_comm 1 i] using hbad)
    simp [readCells, hd, hg, cellValue_of_reads hm h1 h0, hrest]

/-- The cell loop looks at the entries of its own cells and no others (R70). -/
theorem readCells_congr (m : Matchers) (x y : List Nat) (n k : Nat)
    (h : ∀ j, 3 + 2 * k ≤ j → j < 3 + 2 * (k + n) → x[j]? = y[j]?) : readCells m x n k = readCells m y n k := by
  induction n generalizing k with
  | zero => rfl
  | succ n ih =>
    have h1 := h (3 + 2 * k) (by omega) (by omega)
    have h2 := h (4 + 2 * k) (by omega) (by omega)
    have hrest := ih (k + 1) (fun j hl hu => h j (by omega) (by omega))
    simp only [readCells, h1, h2, hrest]

/-- The cell loop over a record that holds all its cells fails only as BitCellMismatch. -/
theorem readCells_error (m : Matchers) (cap : List Nat) (n k : Nat) (e : Status) (hlen : 3 + 2 * (k + n) ≤ cap.length)
    (h : readCells m cap n k = .error e) : e = .bitCellMismatch := by
  induction n generalizing k with
  | zero => simp [readCells] at h
  | succ n ih =>
    simp only [readCells, List.getElem?_eq_getElem (show 3 + 2 * k < cap.length by omega),
      List.getElem?_eq_getElem (show 4 + 2 * k < cap.length by omega)] at h
    split at h
    · cases h; rfl
    · split at h
      · next e' he => cases h; exact ih (k + 1) (by omega) he
      · cases h

/-- What the cell loop answers is the bits of cells that all read (R68 step 3). -/
theorem readCells_reads (m : Matchers) (cap : List Nat) (n k : Nat) (bits : List Bool)
    (h : readCells m cap n k = .ok bits) :
    bits.length = n ∧ ∀ j (hj : j < bits.length), cellReads m cap (k + j) bits[j] := by
  induction n generalizing k bits with
  | zero => simp only [readCells, Except.ok.injEq] at h; subst h; simp
  | succ n ih =>
    simp only [readCells] at h
    split at h
    · next d g hd hg =>
      split at h
      · cases h
      · next bit hbit =>
        split at h
        · cases h
        · next rest hrest =>
          simp only [Except.ok.injEq] at h
          subst h
          obtain ⟨hlen, hall⟩ := ih (k + 1) rest hrest
          refine ⟨by simp [hlen], ?_⟩
          intro j hj
          cases j with
          | zero =>
            refine ⟨d, g, hd, hg, ?_⟩
            simp only [cellValue, bitMarkUs, oneSpaceUs, zeroSpaceUs] at hbit
            cases h0 : m.mark d 600 <;> cases h1 : m.space g 1100 <;> cases h2 : m.space g 500 <;>
              simp_all
          | succ j =>
            have := hall j (by simpa using hj)
            simpa [Nat.add_assoc, Nat.add_comm 1 j] using this
    · cases h

theorem headerMatches_iff (m : Matchers) (cap : List Nat) : headerMatches m cap = true ↔ headerReads m cap := by
  simp only [headerMatches, headerReads, hdrMarkUs, hdrSpaceUs]
  constructor
  · intro h
    split at h
    · next d g hd hg => exact ⟨d, g, hd, hg, by simpa using h⟩
    · cases h
  · rintro ⟨d, g, hd, hg, h1, h2⟩
    simp [hd, hg, h1, h2]

/-- Every way a decode can end (R68): the payload it answers carries its checksum, and it fails with one of
the four decode errors. -/
theorem decodeFrame_cases (m : Matchers) (cap : List Nat) :
    (∃ a, decodeFrame m cap = .ok a ∧ a[13] = cksum a) ∨
    (∃ e, decodeFrame m cap = .error e ∧
      (e = .insufficientData ∨ e = .headerMismatch ∨ e = .bitCellMismatch ∨ e = .checksumMismatch)) := by
  simp only [decodeFrame]
  split
  · exact .inr ⟨_, rfl, .inl rfl⟩
  · next hlen =>
    split
    · exact .inr ⟨_, rfl, .inr (.inl rfl)⟩
    · split
      · next e he =>
        refine .inr ⟨e, rfl, .inr (.inr (.inl ?_))⟩
        exact readCells_error m cap nBits 0 e (by simp only [minRawLen, nBits] at *; omega) he
      · split
        · next h => exact .inl ⟨_, rfl, h.symm⟩
        · exact .inr ⟨_, rfl, .inr (.inr (.inr rfl))⟩

/-- RX_TAG_VALID is membership in the twelve tags of the tag ROM (R23, R91). -/
theorem tagKnown_eq (t : Byte) : tagKnown t =
    decide (t ∈ ([0x04, 0x08, 0x09, 0x0C, 0x0D, 0x10, 0x14, 0x18, 0x19, 0x1C, 0x1D, 0x24] : List Byte)) := by
  revert t; decide +kernel

/-- A record of at least 228 entries whose header matches and whose cells read as the bits of a payload
decodes to that payload or, where its checksum does not hold, to ChecksumMismatch (R68). -/
theorem decodeFrame_bits (m : Matchers) (cap : List Nat) (a : Payload) (hl : 228 ≤ cap.length)
    (hh : headerReads m cap)
    (hc : ∀ k : Fin 112, cellReads m cap k.val (a[k.val / 8].getLsbD (7 - k.val % 8))) :
    decodeFrame m cap = if cksum a = a[13] then .ok a else .error .checksumMismatch := by
  have hr : readCells m cap nBits 0 = .ok (payloadBits a) := by
    apply readCells_ok
    · simp [nBits]
    · intro j hj
      have hj' : j < 112 := by simpa using hj
      have h1 := payloadBits_get a ⟨j, hj'⟩
      rw [List.getElem?_eq_getElem hj] at h1
      simp only [Option.some.injEq] at h1
      rw [Nat.zero_add, h1]
      exact hc ⟨j, hj'⟩
  have hasm : assemble (payloadBits a) = a := assemble_eq _ _ (payloadBits_get a)
  have hlen : ¬ cap.length < minRawLen := by simp only [minRawLen]; omega
  have hm := (headerMatches_iff m cap).2 hh
  simp [decodeFrame, hlen, hm, hr, hasm]

/-- The record the segments of a frame make after one more entry: its length, its header, its cells (R58,
R61). -/
theorem record_of_send (b : Payload) (d : Nat) :
    (d :: segments (send b)).length = 228 ∧ (d :: segments (send b))[1]? = some 3800 ∧
    (d :: segments (send b))[2]? = some 1400 ∧
    ∀ k : Fin 112, (d :: segments (send b))[3 + 2 * k.val]? = some 600 ∧
      (d :: segments (send b))[4 + 2 * k.val]? = some (bitSpaceUs (b[k.val / 8].getLsbD (7 - k.val % 8))) := by
  have len2 : ∀ x : Bool, ([bitMarkUs, bitSpaceUs x] : List Nat).length = 2 := fun _ => rfl
  rw [segments_send]
  refine ⟨by simp [length_flatMap_blocks _ 2 len2], rfl, rfl, ?_⟩
  intro k
  have hk := k.isLt
  have g := payloadBits_get b k
  have c : ∀ j (hj : j < 2), (d :: hdrMarkUs :: hdrSpaceUs ::
      ((payloadBits b).flatMap (fun bit => [bitMarkUs, bitSpaceUs bit]) ++ [bitMarkUs]))[3 + (2 * k.val + j)]? =
      ([bitMarkUs, bitSpaceUs (b[k.val / 8].getLsbD (7 - k.val % 8))] : List Nat)[j]? := by
    intro j hj
    have h3 : 3 + (2 * k.val + j) = (2 * k.val + j) + 1 + 1 + 1 := by omega
    rw [h3, List.getElem?_cons_succ, List.getElem?_cons_succ, List.getElem?_cons_succ,
      List.getElem?_append_left (by rw [length_flatMap_blocks _ 2 len2]; simp; omega),
      getElem?_flatMap_blocks _ 2 len2 _ _ _ hj, g]
    rfl
  have c0 := c 0 (by decide)
  have c1 := c 1 (by decide)
  have e : 3 + (2 * k.val + 1) = 4 + 2 * k.val := by omega
  rw [e] at c1
  exact ⟨c0, c1⟩

end Sys2Proof.Machine
end

