-- ==== Sys2Proof/Laws/State.lean ====
section
/-! SUPPORT. One lemma per field per update of the state, each true by `rfl`: what an operation writes and
what it leaves, so that no proof unfolds a record update. -/

namespace Sys2Proof.Machine

variable (s : State)

@[simp] theorem finish_p (st : Status) (r : List Byte) : (State.finish s st r).p = s.p := rfl
@[simp] theorem finish_status (st : Status) (r : List Byte) : (State.finish s st r).status = st.code := rfl
@[simp] theorem finish_resp (st : Status) (r : List Byte) : (State.finish s st r).resp = r := rfl
@[simp] theorem finish_rxp (st : Status) (r : List Byte) : (State.finish s st r).rxp = s.rxp := rfl
@[simp] theorem finish_rxValid (st : Status) (r : List Byte) : (State.finish s st r).rxValid = s.rxValid := rfl
@[simp] theorem finish_rxTag (st : Status) (r : List Byte) : (State.finish s st r).rxTag = s.rxTag := rfl
@[simp] theorem finish_rxTagValid (st : Status) (r : List Byte) : (State.finish s st r).rxTagValid = s.rxTagValid := rfl
@[simp] theorem finish_cmdIdx (st : Status) (r : List Byte) : (State.finish s st r).cmdIdx = s.cmdIdx + 1 := rfl
@[simp] theorem finish_txLog (st : Status) (r : List Byte) : (State.finish s st r).txLog = s.txLog := rfl
@[simp] theorem finish_cap (st : Status) (r : List Byte) : (State.finish s st r).cap = s.cap := rfl
@[simp] theorem finish_capComplete (st : Status) (r : List Byte) : (State.finish s st r).capComplete = s.capComplete := rfl
@[simp] theorem finish_txReady (st : Status) (r : List Byte) : (State.finish s st r).txReady = s.txReady := rfl
@[simp] theorem finish_resetDone (st : Status) (r : List Byte) : (State.finish s st r).resetDone = s.resetDone := rfl
@[simp] theorem finish_cfg (st : Status) (r : List Byte) : (State.finish s st r).cfg = s.cfg := rfl
@[simp] theorem finish_inputs (st : Status) (r : List Byte) : (State.finish s st r).inputs = s.inputs := rfl

@[simp] theorem withPayload_p (x : Payload) : (State.withPayload s x).p = x := rfl
@[simp] theorem withPayload_status (x : Payload) : (State.withPayload s x).status = s.status := rfl
@[simp] theorem withPayload_resp (x : Payload) : (State.withPayload s x).resp = s.resp := rfl
@[simp] theorem withPayload_rxp (x : Payload) : (State.withPayload s x).rxp = s.rxp := rfl
@[simp] theorem withPayload_rxValid (x : Payload) : (State.withPayload s x).rxValid = s.rxValid := rfl
@[simp] theorem withPayload_rxTag (x : Payload) : (State.withPayload s x).rxTag = s.rxTag := rfl
@[simp] theorem withPayload_rxTagValid (x : Payload) : (State.withPayload s x).rxTagValid = s.rxTagValid := rfl
@[simp] theorem withPayload_cmdIdx (x : Payload) : (State.withPayload s x).cmdIdx = s.cmdIdx := rfl
@[simp] theorem withPayload_txLog (x : Payload) : (State.withPayload s x).txLog = s.txLog := rfl
@[simp] theorem withPayload_cap (x : Payload) : (State.withPayload s x).cap = s.cap := rfl
@[simp] theorem withPayload_capComplete (x : Payload) : (State.withPayload s x).capComplete = s.capComplete := rfl
@[simp] theorem withPayload_txReady (x : Payload) : (State.withPayload s x).txReady = s.txReady := rfl
@[simp] theorem withPayload_resetDone (x : Payload) : (State.withPayload s x).resetDone = s.resetDone := rfl
@[simp] theorem withPayload_cfg (x : Payload) : (State.withPayload s x).cfg = s.cfg := rfl
@[simp] theorem withPayload_inputs (x : Payload) : (State.withPayload s x).inputs = s.inputs := rfl

@[simp] theorem emit_p (evs : List TxEvent) : (State.emit s evs).p = s.p := rfl
@[simp] theorem emit_status (evs : List TxEvent) : (State.emit s evs).status = s.status := rfl
@[simp] theorem emit_resp (evs : List TxEvent) : (State.emit s evs).resp = s.resp := rfl
@[simp] theorem emit_rxp (evs : List TxEvent) : (State.emit s evs).rxp = s.rxp := rfl
@[simp] theorem emit_rxValid (evs : List TxEvent) : (State.emit s evs).rxValid = s.rxValid := rfl
@[simp] theorem emit_rxTag (evs : List TxEvent) : (State.emit s evs).rxTag = s.rxTag := rfl
@[simp] theorem emit_rxTagValid (evs : List TxEvent) : (State.emit s evs).rxTagValid = s.rxTagValid := rfl
@[simp] theorem emit_cmdIdx (evs : List TxEvent) : (State.emit s evs).cmdIdx = s.cmdIdx := rfl
@[simp] theorem emit_txLog (evs : List TxEvent) : (State.emit s evs).txLog = s.txLog ++ evs := rfl
@[simp] theorem emit_cap (evs : List TxEvent) : (State.emit s evs).cap = s.cap := rfl
@[simp] theorem emit_capComplete (evs : List TxEvent) : (State.emit s evs).capComplete = s.capComplete := rfl
@[simp] theorem emit_txReady (evs : List TxEvent) : (State.emit s evs).txReady = s.txReady := rfl
@[simp] theorem emit_resetDone (evs : List TxEvent) : (State.emit s evs).resetDone = s.resetDone := rfl
@[simp] theorem emit_cfg (evs : List TxEvent) : (State.emit s evs).cfg = s.cfg := rfl
@[simp] theorem emit_inputs (evs : List TxEvent) : (State.emit s evs).inputs = s.inputs := rfl

@[simp] theorem storeRxp_p (x : Payload) : (State.storeRxp s x).p = s.p := rfl
@[simp] theorem storeRxp_status (x : Payload) : (State.storeRxp s x).status = s.status := rfl
@[simp] theorem storeRxp_resp (x : Payload) : (State.storeRxp s x).resp = s.resp := rfl
@[simp] theorem storeRxp_rxp (x : Payload) : (State.storeRxp s x).rxp = some x := rfl
@[simp] theorem storeRxp_rxValid (x : Payload) : (State.storeRxp s x).rxValid = true := rfl
@[simp] theorem storeRxp_rxTag (x : Payload) : (State.storeRxp s x).rxTag = s.rxTag := rfl
@[simp] theorem storeRxp_rxTagValid (x : Payload) : (State.storeRxp s x).rxTagValid = s.rxTagValid := rfl
@[simp] theorem storeRxp_cmdIdx (x : Payload) : (State.storeRxp s x).cmdIdx = s.cmdIdx := rfl
@[simp] theorem storeRxp_txLog (x : Payload) : (State.storeRxp s x).txLog = s.txLog := rfl
@[simp] theorem storeRxp_cap (x : Payload) : (State.storeRxp s x).cap = s.cap := rfl
@[simp] theorem storeRxp_capComplete (x : Payload) : (State.storeRxp s x).capComplete = s.capComplete := rfl
@[simp] theorem storeRxp_txReady (x : Payload) : (State.storeRxp s x).txReady = s.txReady := rfl
@[simp] theorem storeRxp_resetDone (x : Payload) : (State.storeRxp s x).resetDone = s.resetDone := rfl
@[simp] theorem storeRxp_cfg (x : Payload) : (State.storeRxp s x).cfg = s.cfg := rfl
@[simp] theorem storeRxp_inputs (x : Payload) : (State.storeRxp s x).inputs = s.inputs := rfl

@[simp] theorem interpret_p (t : Byte) : (interpret t s).p = s.p := rfl
@[simp] theorem interpret_status (t : Byte) : (interpret t s).status = s.status := rfl
@[simp] theorem interpret_resp (t : Byte) : (interpret t s).resp = s.resp := rfl
@[simp] theorem interpret_rxp (t : Byte) : (interpret t s).rxp = s.rxp := rfl
@[simp] theorem interpret_rxValid (t : Byte) : (interpret t s).rxValid = s.rxValid := rfl
@[simp] theorem interpret_rxTag (t : Byte) : (interpret t s).rxTag = some t := rfl
@[simp] theorem interpret_rxTagValid (t : Byte) : (interpret t s).rxTagValid = tagKnown t := rfl
@[simp] theorem interpret_cmdIdx (t : Byte) : (interpret t s).cmdIdx = s.cmdIdx := rfl
@[simp] theorem interpret_txLog (t : Byte) : (interpret t s).txLog = s.txLog := rfl
@[simp] theorem interpret_cap (t : Byte) : (interpret t s).cap = s.cap := rfl
@[simp] theorem interpret_capComplete (t : Byte) : (interpret t s).capComplete = s.capComplete := rfl
@[simp] theorem interpret_txReady (t : Byte) : (interpret t s).txReady = s.txReady := rfl
@[simp] theorem interpret_resetDone (t : Byte) : (interpret t s).resetDone = s.resetDone := rfl
@[simp] theorem interpret_cfg (t : Byte) : (interpret t s).cfg = s.cfg := rfl
@[simp] theorem interpret_inputs (t : Byte) : (interpret t s).inputs = s.inputs := rfl

@[simp] theorem withCapture_p (rec : List Nat) (b : Bool) : (State.withCapture s rec b).p = s.p := rfl
@[simp] theorem withCapture_status (rec : List Nat) (b : Bool) : (State.withCapture s rec b).status = s.status := rfl
@[simp] theorem withCapture_resp (rec : List Nat) (b : Bool) : (State.withCapture s rec b).resp = s.resp := rfl
@[simp] theorem withCapture_rxp (rec : List Nat) (b : Bool) : (State.withCapture s rec b).rxp = s.rxp := rfl
@[simp] theorem withCapture_rxValid (rec : List Nat) (b : Bool) : (State.withCapture s rec b).rxValid = s.rxValid := rfl
@[simp] theorem withCapture_rxTag (rec : List Nat) (b : Bool) : (State.withCapture s rec b).rxTag = s.rxTag := rfl
@[simp] theorem withCapture_rxTagValid (rec : List Nat) (b : Bool) : (State.withCapture s rec b).rxTagValid = s.rxTagValid := rfl
@[simp] theorem withCapture_cmdIdx (rec : List Nat) (b : Bool) : (State.withCapture s rec b).cmdIdx = s.cmdIdx := rfl
@[simp] theorem withCapture_txLog (rec : List Nat) (b : Bool) : (State.withCapture s rec b).txLog = s.txLog := rfl
@[simp] theorem withCapture_cap (rec : List Nat) (b : Bool) : (State.withCapture s rec b).cap = rec := rfl
@[simp] theorem withCapture_capComplete (rec : List Nat) (b : Bool) : (State.withCapture s rec b).capComplete = b := rfl
@[simp] theorem withCapture_txReady (rec : List Nat) (b : Bool) : (State.withCapture s rec b).txReady = s.txReady := rfl
@[simp] theorem withCapture_resetDone (rec : List Nat) (b : Bool) : (State.withCapture s rec b).resetDone = s.resetDone := rfl
@[simp] theorem withCapture_cfg (rec : List Nat) (b : Bool) : (State.withCapture s rec b).cfg = s.cfg := rfl
@[simp] theorem withCapture_inputs (rec : List Nat) (b : Bool) : (State.withCapture s rec b).inputs = s.inputs := rfl

@[simp] theorem withTxReady_p (b : Bool) : (State.withTxReady s b).p = s.p := rfl
@[simp] theorem withTxReady_status (b : Bool) : (State.withTxReady s b).status = s.status := rfl
@[simp] theorem withTxReady_resp (b : Bool) : (State.withTxReady s b).resp = s.resp := rfl
@[simp] theorem withTxReady_rxp (b : Bool) : (State.withTxReady s b).rxp = s.rxp := rfl
@[simp] theorem withTxReady_rxValid (b : Bool) : (State.withTxReady s b).rxValid = s.rxValid := rfl
@[simp] theorem withTxReady_rxTag (b : Bool) : (State.withTxReady s b).rxTag = s.rxTag := rfl
@[simp] theorem withTxReady_rxTagValid (b : Bool) : (State.withTxReady s b).rxTagValid = s.rxTagValid := rfl
@[simp] theorem withTxReady_cmdIdx (b : Bool) : (State.withTxReady s b).cmdIdx = s.cmdIdx := rfl
@[simp] theorem withTxReady_txLog (b : Bool) : (State.withTxReady s b).txLog = s.txLog := rfl
@[simp] theorem withTxReady_cap (b : Bool) : (State.withTxReady s b).cap = s.cap := rfl
@[simp] theorem withTxReady_capComplete (b : Bool) : (State.withTxReady s b).capComplete = s.capComplete := rfl
@[simp] theorem withTxReady_txReady (b : Bool) : (State.withTxReady s b).txReady = b := rfl
@[simp] theorem withTxReady_resetDone (b : Bool) : (State.withTxReady s b).resetDone = s.resetDone := rfl
@[simp] theorem withTxReady_cfg (b : Bool) : (State.withTxReady s b).cfg = s.cfg := rfl
@[simp] theorem withTxReady_inputs (b : Bool) : (State.withTxReady s b).inputs = s.inputs := rfl

@[simp] theorem afterPowerLoss_p : (State.afterPowerLoss s).p = resetPayload s.cfg := rfl
@[simp] theorem afterPowerLoss_status : (State.afterPowerLoss s).status = 0 := rfl
@[simp] theorem afterPowerLoss_resp : (State.afterPowerLoss s).resp = [] := rfl
@[simp] theorem afterPowerLoss_rxp : (State.afterPowerLoss s).rxp = none := rfl
@[simp] theorem afterPowerLoss_rxValid : (State.afterPowerLoss s).rxValid = false := rfl
@[simp] theorem afterPowerLoss_rxTag : (State.afterPowerLoss s).rxTag = none := rfl
@[simp] theorem afterPowerLoss_rxTagValid : (State.afterPowerLoss s).rxTagValid = false := rfl
@[simp] theorem afterPowerLoss_cmdIdx : (State.afterPowerLoss s).cmdIdx = 0 := rfl
@[simp] theorem afterPowerLoss_txLog : (State.afterPowerLoss s).txLog = [] := rfl
@[simp] theorem afterPowerLoss_cap : (State.afterPowerLoss s).cap = s.cap := rfl
@[simp] theorem afterPowerLoss_capComplete : (State.afterPowerLoss s).capComplete = s.capComplete := rfl
@[simp] theorem afterPowerLoss_txReady : (State.afterPowerLoss s).txReady = s.txReady := rfl
@[simp] theorem afterPowerLoss_resetDone : (State.afterPowerLoss s).resetDone = false := rfl
@[simp] theorem afterPowerLoss_cfg : (State.afterPowerLoss s).cfg = s.cfg := rfl
@[simp] theorem afterPowerLoss_inputs : (State.afterPowerLoss s).inputs = s.inputs := rfl

@[simp] theorem afterPowerUp_p : (State.afterPowerUp s).p = resetPayload s.cfg := rfl
@[simp] theorem afterPowerUp_status : (State.afterPowerUp s).status = 0 := rfl
@[simp] theorem afterPowerUp_resp : (State.afterPowerUp s).resp = [] := rfl
@[simp] theorem afterPowerUp_rxp : (State.afterPowerUp s).rxp = none := rfl
@[simp] theorem afterPowerUp_rxValid : (State.afterPowerUp s).rxValid = false := rfl
@[simp] theorem afterPowerUp_rxTag : (State.afterPowerUp s).rxTag = none := rfl
@[simp] theorem afterPowerUp_rxTagValid : (State.afterPowerUp s).rxTagValid = false := rfl
@[simp] theorem afterPowerUp_cmdIdx : (State.afterPowerUp s).cmdIdx = 0 := rfl
@[simp] theorem afterPowerUp_txLog : (State.afterPowerUp s).txLog = [] := rfl
@[simp] theorem afterPowerUp_cap : (State.afterPowerUp s).cap = s.cap := rfl
@[simp] theorem afterPowerUp_capComplete : (State.afterPowerUp s).capComplete = s.capComplete := rfl
@[simp] theorem afterPowerUp_txReady : (State.afterPowerUp s).txReady = true := rfl
@[simp] theorem afterPowerUp_resetDone : (State.afterPowerUp s).resetDone = true := rfl
@[simp] theorem afterPowerUp_cfg : (State.afterPowerUp s).cfg = s.cfg := rfl
@[simp] theorem afterPowerUp_inputs : (State.afterPowerUp s).inputs = s.inputs := rfl

@[simp] theorem withInputs_p (ins : List Input) : (State.withInputs s ins).p = s.p := rfl
@[simp] theorem withInputs_status (ins : List Input) : (State.withInputs s ins).status = s.status := rfl
@[simp] theorem withInputs_resp (ins : List Input) : (State.withInputs s ins).resp = s.resp := rfl
@[simp] theorem withInputs_rxp (ins : List Input) : (State.withInputs s ins).rxp = s.rxp := rfl
@[simp] theorem withInputs_rxValid (ins : List Input) : (State.withInputs s ins).rxValid = s.rxValid := rfl
@[simp] theorem withInputs_rxTag (ins : List Input) : (State.withInputs s ins).rxTag = s.rxTag := rfl
@[simp] theorem withInputs_rxTagValid (ins : List Input) : (State.withInputs s ins).rxTagValid = s.rxTagValid := rfl
@[simp] theorem withInputs_cmdIdx (ins : List Input) : (State.withInputs s ins).cmdIdx = s.cmdIdx := rfl
@[simp] theorem withInputs_txLog (ins : List Input) : (State.withInputs s ins).txLog = s.txLog := rfl
@[simp] theorem withInputs_cap (ins : List Input) : (State.withInputs s ins).cap = s.cap := rfl
@[simp] theorem withInputs_capComplete (ins : List Input) : (State.withInputs s ins).capComplete = s.capComplete := rfl
@[simp] theorem withInputs_txReady (ins : List Input) : (State.withInputs s ins).txReady = s.txReady := rfl
@[simp] theorem withInputs_resetDone (ins : List Input) : (State.withInputs s ins).resetDone = s.resetDone := rfl
@[simp] theorem withInputs_cfg (ins : List Input) : (State.withInputs s ins).cfg = s.cfg := rfl
@[simp] theorem withInputs_inputs (ins : List Input) : (State.withInputs s ins).inputs = ins := rfl

@[simp] theorem presentWord_p (w : Word) : (presentWord s w).p = s.p := rfl
@[simp] theorem presentWord_status (w : Word) : (presentWord s w).status = s.status := rfl
@[simp] theorem presentWord_resp (w : Word) : (presentWord s w).resp = s.resp := rfl
@[simp] theorem presentWord_rxp (w : Word) : (presentWord s w).rxp = s.rxp := rfl
@[simp] theorem presentWord_rxValid (w : Word) : (presentWord s w).rxValid = s.rxValid := rfl
@[simp] theorem presentWord_rxTag (w : Word) : (presentWord s w).rxTag = s.rxTag := rfl
@[simp] theorem presentWord_rxTagValid (w : Word) : (presentWord s w).rxTagValid = s.rxTagValid := rfl
@[simp] theorem presentWord_cmdIdx (w : Word) : (presentWord s w).cmdIdx = s.cmdIdx := rfl
@[simp] theorem presentWord_txLog (w : Word) : (presentWord s w).txLog = s.txLog := rfl
@[simp] theorem presentWord_cap (w : Word) : (presentWord s w).cap = s.cap := rfl
@[simp] theorem presentWord_capComplete (w : Word) : (presentWord s w).capComplete = s.capComplete := rfl
@[simp] theorem presentWord_txReady (w : Word) : (presentWord s w).txReady = s.txReady := rfl
@[simp] theorem presentWord_resetDone (w : Word) : (presentWord s w).resetDone = true := rfl
@[simp] theorem presentWord_cfg (w : Word) : (presentWord s w).cfg = s.cfg := rfl
@[simp] theorem presentWord_inputs (w : Word) : (presentWord s w).inputs = .command w :: s.inputs := rfl

theorem State.reset_eq : State.reset = State.resetWith Config.standard := rfl

@[simp] theorem resetWith_p (c : Config) : (State.resetWith c).p = resetPayload c := rfl
@[simp] theorem resetWith_status (c : Config) : (State.resetWith c).status = 0 := rfl
@[simp] theorem resetWith_resp (c : Config) : (State.resetWith c).resp = [] := rfl
@[simp] theorem resetWith_rxp (c : Config) : (State.resetWith c).rxp = none := rfl
@[simp] theorem resetWith_rxValid (c : Config) : (State.resetWith c).rxValid = false := rfl
@[simp] theorem resetWith_rxTag (c : Config) : (State.resetWith c).rxTag = none := rfl
@[simp] theorem resetWith_rxTagValid (c : Config) : (State.resetWith c).rxTagValid = false := rfl
@[simp] theorem resetWith_cmdIdx (c : Config) : (State.resetWith c).cmdIdx = 0 := rfl
@[simp] theorem resetWith_txLog (c : Config) : (State.resetWith c).txLog = [] := rfl
@[simp] theorem resetWith_cap (c : Config) : (State.resetWith c).cap = [] := rfl
@[simp] theorem resetWith_capComplete (c : Config) : (State.resetWith c).capComplete = true := rfl
@[simp] theorem resetWith_txReady (c : Config) : (State.resetWith c).txReady = true := rfl
@[simp] theorem resetWith_resetDone (c : Config) : (State.resetWith c).resetDone = true := rfl
@[simp] theorem resetWith_cfg (c : Config) : (State.resetWith c).cfg = c := rfl
@[simp] theorem resetWith_inputs (c : Config) : (State.resetWith c).inputs = [] := rfl

end Sys2Proof.Machine
end

