-- ==== Sys2Proof/Laws/Exec.lean ====
section
/-! SUPPORT. Inversion: what a command, an input and a step can do, said once. Later proofs cite these
lemmas and unfold no meaning. -/

namespace Sys2Proof.Machine

/-- The state a successful SET leaves (R84). -/
def afterSet (q : Property) (c : Fin q.count) (s : State) : State :=
  ((s.withPayload (setPayload q c s.p)).emit (send (setPayload q c s.p))).finish .ok []

/-- The state a successful DEC leaves (R68). -/
def afterDec (a : Payload) (s : State) : State :=
  (interpret a[12] (s.storeRxp a)).finish .ok (a.toList ++ [flagByte (tagKnown a[12])])

theorem execSet_known (q : Property) (c : Fin q.count) (s : State) (h : s.txReady = true) :
    execSet q.code (BitVec.ofNat 8 c.val) s = .next (afterSet q c s) := by
  simp [execSet, h, done, afterSet]

theorem execSet_unknownProperty (p : Nibble) (l : Byte) (s : State) (h : 5 < p.toNat) :
    execSet p l s = .next (s.finish .unknownProperty []) := by
  simp [execSet, (propOperand_eq_none_iff p).2 h, raise]

theorem execSet_unknownLabel (q : Property) (l : Byte) (s : State) (h : q.count ≤ l.toNat) :
    execSet q.code l s = .next (s.finish .unknownLabel []) := by
  simp [execSet, (labelOperand_eq_none_iff q l).2 h, raise]

theorem execDec_ok (s : State) (a : Payload) (hrx : s.cfg.rxPresent = true) (hc : s.capComplete = true)
    (h : decodeFrame (matchersOf s.cfg) s.cap = .ok a) : execDec s = .next (afterDec a s) := by
  simp [execDec, hrx, hc, h, done, afterDec]

theorem execDec_error (s : State) (e : Status) (hrx : s.cfg.rxPresent = true) (hc : s.capComplete = true)
    (h : decodeFrame (matchersOf s.cfg) s.cap = .error e) : execDec s = .next (s.finish e []) := by
  simp [execDec, hrx, hc, h, raise]

/-- Every way a SET can end (R84, R86, R111(b)). -/
theorem execSet_cases (p : Nibble) (l : Byte) (s : State) :
    (5 < p.toNat ∧ execSet p l s = .next (s.finish .unknownProperty [])) ∨
    (∃ q : Property, p = q.code ∧ q.count ≤ l.toNat ∧ execSet p l s = .next (s.finish .unknownLabel [])) ∨
    (∃ (q : Property) (c : Fin q.count), p = q.code ∧ l = BitVec.ofNat 8 c.val ∧
      ((s.txReady = true ∧ execSet p l s = .next (afterSet q c s)) ∨
       (s.txReady = false ∧ execSet p l s = .refused .txPrimitiveNotReady))) := by
  cases hp : propOperand p with
  | none =>
    have h := (propOperand_eq_none_iff p).1 hp
    exact .inl ⟨h, execSet_unknownProperty p l s h⟩
  | some q =>
    obtain rfl := (propOperand_eq_some_iff p q).1 hp
    cases hl : labelOperand q l with
    | none =>
      have h := (labelOperand_eq_none_iff q l).1 hl
      exact .inr (.inl ⟨q, rfl, h, execSet_unknownLabel q l s h⟩)
    | some c =>
      obtain rfl := (labelOperand_eq_some_iff q l c).1 hl
      refine .inr (.inr ⟨q, c, rfl, rfl, ?_⟩)
      cases ht : s.txReady with
      | true => exact .inl ⟨rfl, execSet_known q c s ht⟩
      | false => exact .inr ⟨rfl, by simp [execSet, ht]⟩

/-- Every way a DEC can end (R53, R68, R71, R115). -/
theorem execDec_cases (s : State) :
    (s.cfg.rxPresent = false ∧ execDec s = .next (s.finish .illegalCommand [])) ∨
    (s.cfg.rxPresent = true ∧ s.capComplete = false ∧ execDec s = .refused .captureUnstable) ∨
    (s.cfg.rxPresent = true ∧ s.capComplete = true ∧
      ((∃ a, decodeFrame (matchersOf s.cfg) s.cap = .ok a ∧ a[13] = cksum a ∧ execDec s = .next (afterDec a s)) ∨
       (∃ e, (e = .insufficientData ∨ e = .headerMismatch ∨ e = .bitCellMismatch ∨ e = .checksumMismatch) ∧
         execDec s = .next (s.finish e [])))) := by
  cases hrx : s.cfg.rxPresent with
  | false => exact .inl ⟨rfl, by simp [execDec, hrx, raise]⟩
  | true =>
    cases hc : s.capComplete with
    | false => exact .inr (.inl ⟨rfl, rfl, by simp [execDec, hrx, hc]⟩)
    | true =>
      refine .inr (.inr ⟨rfl, rfl, ?_⟩)
      rcases decodeFrame_cases (matchersOf s.cfg) s.cap with ⟨a, ha, hs⟩ | ⟨e, he, hk⟩
      · exact .inl ⟨a, ha, hs, execDec_ok s a hrx hc ha⟩
      · exact .inr ⟨e, hk, execDec_error s e hrx hc he⟩

/-- What a command that completes has done: it ended with a status and a response and nothing else, or it
was a successful SET, or it was a successful DEC (R84, R86, R68, R71, R95). -/
theorem exec_cases {i : Instr} {s t : State} (h : exec i s = .next t) :
    (∃ st resp, t = s.finish st resp ∧ (st = .ok → (∀ p l, i ≠ .set p l) ∧ i ≠ .dec)) ∨
    (∃ (q : Property) (c : Fin q.count), i = .set q.code (BitVec.ofNat 8 c.val) ∧ s.txReady = true ∧
      t = afterSet q c s) ∨
    (∃ a, i = .dec ∧ a[13] = cksum a ∧ t = afterDec a s) := by
  cases i with
  | lstp => exact .inl ⟨_, _, (Host.Outcome.next.inj h).symm, fun _ => by simp⟩
  | lstl p =>
    simp only [exec, execLstl] at h
    split at h <;> exact .inl ⟨_, _, (Host.Outcome.next.inj h).symm, fun _ => by simp⟩
  | get p =>
    simp only [exec, execGet] at h
    split at h <;> exact .inl ⟨_, _, (Host.Outcome.next.inj h).symm, fun _ => by simp⟩
  | set p l =>
    simp only [exec] at h
    rcases execSet_cases p l s with ⟨-, he⟩ | ⟨q, -, -, he⟩ | ⟨q, c, rfl, rfl, ⟨ht, he⟩ | ⟨-, he⟩⟩ <;> rw [he] at h
    · exact .inl ⟨_, _, (Host.Outcome.next.inj h).symm, nofun⟩
    · exact .inl ⟨_, _, (Host.Outcome.next.inj h).symm, nofun⟩
    · exact .inr (.inl ⟨q, c, rfl, ht, (Host.Outcome.next.inj h).symm⟩)
    · cases h
  | dump => exact .inl ⟨_, _, (Host.Outcome.next.inj h).symm, fun _ => by simp⟩
  | dec =>
    simp only [exec] at h
    rcases execDec_cases s with ⟨-, he⟩ | ⟨-, -, he⟩ | ⟨-, -, ⟨a, -, hs, he⟩ | ⟨e, hk, he⟩⟩ <;> rw [he] at h
    · exact .inl ⟨_, _, (Host.Outcome.next.inj h).symm, nofun⟩
    · cases h
    · exact .inr (.inr ⟨a, rfl, hs, (Host.Outcome.next.inj h).symm⟩)
    · refine .inl ⟨e, [], (Host.Outcome.next.inj h).symm, ?_⟩
      rcases hk with rfl | rfl | rfl | rfl <;> nofun
  | illegal w => exact .inl ⟨_, _, (Host.Outcome.next.inj h).symm, nofun⟩

/-- What a step that goes on has done (R41, R89): nothing, a command, or one of the platform's inputs. -/
theorem step_cases {s t : State} (h : step s = .next t) :
    configOk s.cfg = true ∧
    ((s.inputs = [] ∧ t = s) ∨
     (∃ i rest, s.inputs = i :: rest ∧
       ((∃ w, i = .command w ∧ s.resetDone = true ∧ exec (decode w) (s.withInputs rest) = .next t) ∨
        (∃ record complete, i = .capture record complete ∧ captureFits s.cfg record = true ∧
          t = (s.withInputs rest).withCapture record complete) ∨
        (∃ ready, i = .txPrimitive ready ∧ t = (s.withInputs rest).withTxReady ready) ∨
        (i = .powerLoss ∧ t = (s.withInputs rest).afterPowerLoss) ∨
        (i = .powerUp ∧ t = (s.withInputs rest).afterPowerUp)))) := by
  simp only [step, runNext] at h
  split at h
  · next hc =>
    refine ⟨hc, ?_⟩
    split at h
    · next hi => exact .inl ⟨hi, (Host.Outcome.next.inj h).symm⟩
    · next i rest hi =>
      refine .inr ⟨i, rest, hi, ?_⟩
      cases i with
      | command w =>
        cases hr : s.resetDone with
        | true => exact .inl ⟨w, rfl, rfl, by simpa [accept, runCommand, hr] using h⟩
        | false => simp [accept, runCommand, hr] at h
      | capture record complete =>
        cases hf : captureFits s.cfg record with
        | true => exact .inr (.inl ⟨record, complete, rfl, hf, by simpa [accept, hf, eq_comm] using h⟩)
        | false => simp [accept, hf] at h
      | txPrimitive ready => exact .inr (.inr (.inl ⟨ready, rfl, (Host.Outcome.next.inj h).symm⟩))
      | powerLoss => exact .inr (.inr (.inr (.inl ⟨rfl, (Host.Outcome.next.inj h).symm⟩)))
      | powerUp => exact .inr (.inr (.inr (.inr ⟨rfl, (Host.Outcome.next.inj h).symm⟩)))
  · cases h

/-- The capture space always holds what its driver can leave in it (R12, R36): a command does not write it
and an input is checked before it is taken. -/
theorem step_captureFits {s t : State} (h : step s = .next t) (hw : captureFits s.cfg s.cap = true) :
    captureFits t.cfg t.cap = true := by
  obtain ⟨-, ⟨-, rfl⟩ | ⟨i, rest, -, hcase⟩⟩ := step_cases h
  · exact hw
  · rcases hcase with ⟨w, -, -, he⟩ | ⟨record, complete, -, hf, rfl⟩ | ⟨ready, -, rfl⟩ | ⟨-, rfl⟩ | ⟨-, rfl⟩
    · rcases exec_cases he with ⟨st, resp, rfl, -⟩ | ⟨q, c, -, -, rfl⟩ | ⟨a, -, -, rfl⟩ <;>
        simpa [afterSet, afterDec] using hw
    · simpa using hf
    · simpa using hw
    · simpa using hw
    · simpa using hw

end Sys2Proof.Machine
end

