-- ==== Sys2Proof/Laws/Controller.lean ====
section
/-! SUPPORT. What a SET does to each payload byte, and what a command can do to the payload as a whole. -/

namespace Sys2Proof.Machine

/-- The prefix bytes, one by one (R16). -/
theorem prefixHolds_iff (p : Payload) :
    prefixHolds p ↔ p[0] = 0x23 ∧ p[1] = 0xCB ∧ p[2] = 0x26 ∧ p[3] = 0x01 ∧ p[4] = 0x00 := by
  obtain ⟨⟨l⟩, hl⟩ := p
  simp only [List.size_toArray] at hl
  match l, hl with
  | [_, _, _, _, _, _, _, _, _, _, _, _, _, _], _ => simp [prefixHolds, constPrefix]

/-- The payload a successful SET leaves, at every byte but the tag and the checksum (R84). -/
theorem setPayload_get (q : Property) (c : Fin q.count) (p : Payload) (j : Fin 14) (h12 : j ≠ 12)
    (h13 : j ≠ 13) : (setPayload q c p)[j] =
      if q.byteIndex = j then (p[q.byteIndex] &&& ~~~q.mask) ||| q.value c else p[j] := by
  rw [setPayload, sealPayload_get_other _ _ _ h12 h13, applyLabel_get]

theorem mask_inside_owned (q : Property) : q.mask &&& ~~~ownedBits q.byteIndex = 0 := by
  cases q <;> decide

/-- A SET leaves the bits no property owns (R39, R79). -/
theorem setPayload_unowned (q : Property) (c : Fin q.count) (p : Payload) (j : Fin 14) (h5 : 5 ≤ j.val)
    (h11 : j.val ≤ 11) : (setPayload q c p)[j] &&& ~~~ownedBits j = p[j] &&& ~~~ownedBits j := by
  rw [setPayload_get _ _ _ _ (by rintro rfl; revert h11; decide) (by rintro rfl; revert h11; decide)]
  split
  · next h =>
    subst h
    exact maskedWrite_and_other _ _ _ _ (value_and_mask q c) (mask_inside_owned q)
  · rfl

/-- A SET leaves the prefix bytes (R16). -/
theorem setPayload_low (q : Property) (c : Fin q.count) (p : Payload) (j : Fin 14) (h : j.val ≤ 4) :
    (setPayload q c p)[j] = p[j] := by
  have hq := byteIndex_range q
  rw [setPayload_get _ _ _ _ (by rintro rfl; revert h; decide) (by rintro rfl; revert h; decide), if_neg]
  rintro rfl
  omega

/-- A SET leaves its label's value in its property's field and no other property's field changed (R76,
R78, R84). -/
theorem fieldValue_setPayload (q r : Property) (c : Fin q.count) (p : Payload) :
    fieldValue q (setPayload q c p) = q.value c ∧ (q ≠ r → fieldValue r (setPayload q c p) = fieldValue r p) := by
  constructor
  · rw [setPayload, fieldValue_sealPayload, fieldValue_applyLabel_same]
  · intro h
    rw [setPayload, fieldValue_sealPayload, fieldValue_applyLabel_other _ _ _ _ h]

/-- The payload after a command that completes: as before, or as a SET leaves it (R86, R95). -/
theorem exec_payload_cases {i : Instr} {s t : State} (h : exec i s = .next t) :
    t.p = s.p ∨ ∃ (q : Property) (c : Fin q.count), t.p = setPayload q c s.p := by
  rcases exec_cases h with ⟨st, r, rfl, -⟩ | ⟨q, c, -, -, rfl⟩ | ⟨a, -, -, rfl⟩
  · exact .inl rfl
  · exact .inr ⟨q, c, rfl⟩
  · exact .inl rfl

end Sys2Proof.Machine
end

