-- ==== Sys2Proof/Laws/Encoding.lean ====
section
/-! SUPPORT. What the packed command word holds, and which row accepts it: the lemmas the round trips of
decoder and encoder are made of. -/

namespace Sys2Proof

@[simp] theorem opField_packWord (op prop : Nibble) (lbl : Byte) :
    opField (packWord op prop lbl) = op := by
  simp only [opField, packWord]
  ext i hi
  simp only [BitVec.getElem_extractLsb', BitVec.getLsbD_append]
  interval_cases i <;> simp

@[simp] theorem propField_packWord (op prop : Nibble) (lbl : Byte) :
    propField (packWord op prop lbl) = prop := by
  simp only [propField, packWord]
  ext i hi
  simp only [BitVec.getElem_extractLsb', BitVec.getLsbD_append]
  interval_cases i <;> simp

@[simp] theorem lblField_packWord (op prop : Nibble) (lbl : Byte) :
    lblField (packWord op prop lbl) = lbl := by
  simp only [lblField, packWord]
  ext i hi
  simp only [BitVec.getElem_extractLsb', BitVec.getLsbD_append]
  interval_cases i <;> simp

/-- A word is its three fields (R47). -/
theorem packWord_fields (w : Word) : packWord (opField w) (propField w) (lblField w) = w := by
  apply BitVec.eq_of_getLsbD_eq
  intro i hi
  simp only [opField, propField, lblField, packWord, BitVec.getLsbD_append, BitVec.getLsbD_extractLsb']
  interval_cases i <;> simp

/-- "A word matches a command when `(CMD & mask) == match`" (R49). -/
theorem accepts_iff (r : Pattern) (w : Word) : r.accepts w = true ↔ w &&& r.mask = r.value := by
  simp [Pattern.accepts]

theorem and_fullMask (w v : Word) : w &&& 0xFFFF = v ↔ w = v := by
  have : w &&& 0xFFFF = w := by ext i hi; interval_cases i <;> simp
  rw [this]

/-- The two other masks of R49 keep OP and LBL, and OP alone. -/
theorem and_fieldMasks (w : Word) :
    w &&& 0xF0FF = packWord (opField w) 0 (lblField w) ∧ w &&& 0xF000 = packWord (opField w) 0 0 := by
  constructor <;>
  · apply BitVec.eq_of_getLsbD_eq
    intro i hi
    simp only [opField, lblField, packWord, BitVec.getLsbD_append, BitVec.getLsbD_extractLsb',
      BitVec.getLsbD_and]
    interval_cases i <;> simp

theorem packWord_inj {a b a' b' : Nibble} {c c' : Byte} (h : packWord a b c = packWord a' b' c') :
    a = a' ∧ b = b' ∧ c = c' :=
  ⟨by simpa using congrArg opField h, by simpa using congrArg propField h, by simpa using congrArg lblField h⟩

theorem accepts_full (r : Pattern) (w : Word) (h : r.mask = 0xFFFF) :
    r.accepts w = true ↔
      opField w = opField r.value ∧ propField w = propField r.value ∧ lblField w = lblField r.value := by
  rw [accepts_iff, h, and_fullMask]
  constructor
  · rintro rfl; exact ⟨rfl, rfl, rfl⟩
  · rintro ⟨h1, h2, h3⟩
    rw [← packWord_fields w, ← packWord_fields r.value, h1, h2, h3]

theorem accepts_noLabel (r : Pattern) (w : Word) (o : Nibble) (hm : r.mask = 0xF0FF)
    (hv : r.value = packWord o 0 0) : r.accepts w = true ↔ opField w = o ∧ lblField w = 0 := by
  rw [accepts_iff, hm, hv, (and_fieldMasks w).1]
  constructor
  · intro h; exact ⟨(packWord_inj h).1, (packWord_inj h).2.2⟩
  · rintro ⟨h1, h2⟩; rw [h1, h2]

theorem accepts_opOnly (r : Pattern) (w : Word) (o : Nibble) (hm : r.mask = 0xF000)
    (hv : r.value = packWord o 0 0) : r.accepts w = true ↔ opField w = o := by
  rw [accepts_iff, hm, hv, (and_fieldMasks w).2]
  exact ⟨fun h => (packWord_inj h).1, fun h => by rw [h]⟩

/-- The pattern table read field by field (R48, R49): a row accepts a word when the fields it fixes hold its
values. -/
theorem decode_by_fields (w : Word) : decode w =
    if opField w = 1 ∧ propField w = 0 ∧ lblField w = 0 then .lstp
    else if opField w = 2 ∧ lblField w = 0 then .lstl (propField w)
    else if opField w = 3 ∧ lblField w = 0 then .get (propField w)
    else if opField w = 4 then .set (propField w) (lblField w)
    else if opField w = 5 ∧ propField w = 0 ∧ lblField w = 0 then .dump
    else if opField w = 6 ∧ propField w = 0 ∧ lblField w = 0 then .dec
    else .illegal w := by
  have e1 : lstpRow.accepts w = true ↔ opField w = 1 ∧ propField w = 0 ∧ lblField w = 0 :=
    accepts_full lstpRow w rfl
  have e2 := accepts_noLabel lstlRow w 2 rfl (by decide)
  have e3 := accepts_noLabel getRow w 3 rfl (by decide)
  have e4 := accepts_opOnly setRow w 4 rfl (by decide)
  have e5 : dumpRow.accepts w = true ↔ opField w = 5 ∧ propField w = 0 ∧ lblField w = 0 :=
    accepts_full dumpRow w rfl
  have e6 : decRow.accepts w = true ↔ opField w = 6 ∧ propField w = 0 ∧ lblField w = 0 :=
    accepts_full decRow w rfl
  simp only [decode, e1, e2, e3, e4, e5, e6]

end Sys2Proof
end

