-- ==== Sys2Proof/Laws/PerInstr.lean ====
section
/-! SUPPORT. The family FieldPlacement: for every instruction, the three fields of its word are its
operation code, its property operand and its label operand, with zeros where it has none (R47, R49). -/

namespace Sys2Proof.Laws.FieldPlacement

/-- The fields R47 to R49 give an instruction; an illegal word has no fields of its own. -/
def fieldsOf : Instr → Nibble × Nibble × Byte
  | .lstp => (0x1, 0, 0)
  | .lstl p => (0x2, p, 0)
  | .get p => (0x3, p, 0)
  | .set p l => (0x4, p, l)
  | .dump => (0x5, 0, 0)
  | .dec => (0x6, 0, 0)
  | .illegal w => (opField w, propField w, lblField w)

/-- The word of an instruction carries exactly its fields. -/
def Statement (i : Instr) : Prop :=
  (opField (encode i), propField (encode i), lblField (encode i)) = fieldsOf i

theorem lstp : Statement .lstp := by simp [Statement, fieldsOf, encode]
theorem lstl (p : Nibble) : Statement (.lstl p) := by simp [Statement, fieldsOf, encode]
theorem get (p : Nibble) : Statement (.get p) := by simp [Statement, fieldsOf, encode]
theorem set (p : Nibble) (l : Byte) : Statement (.set p l) := by simp [Statement, fieldsOf, encode]
theorem dump : Statement .dump := by simp [Statement, fieldsOf, encode]
theorem dec : Statement .dec := by simp [Statement, fieldsOf, encode]
theorem illegal (w : Word) : Statement (.illegal w) := by simp [Statement, fieldsOf, encode]

end Sys2Proof.Laws.FieldPlacement
end

