-- ==== Sys2Proof/Laws/Reset.lean ====
section
/-! SUPPORT. The payload the reset sequence leaves, byte by byte (R106 to R108, R110). -/

namespace Sys2Proof.Machine

/-- The value of the default operationMode label (R107, R110). -/
def defaultModeValue : DefaultMode → Byte
  | .off => 0x05
  | .auto => 0x08

/-- The payload before the tag and checksum steps of reset (R106, R107). -/
theorem defaultsPayload_eq (mode : DefaultMode) : defaultsPayload mode =
    #v[0x23, 0xCB, 0x26, 0x01, 0x00, 0x20, defaultModeValue mode, 0x07, 0x38, 0, 0, 0x0F, 0, 0] := by
  cases mode <;> decide

theorem resetPayload_get_other (c : Config) (j : Fin 14) (h12 : j ≠ 12) (h13 : j ≠ 13) :
    (resetPayload c)[j] = (defaultsPayload c.defaultMode)[j] :=
  sealPayload_get_other _ _ _ h12 h13

theorem resetPayload_get_tag (c : Config) : (resetPayload c)[(12 : Fin 14)] = c.resetTag :=
  sealPayload_get_tag _ _

theorem resetPayload_get_checksum (c : Config) : (resetPayload c)[(13 : Fin 14)] = cksum (resetPayload c) :=
  sealPayload_get_checksum _ _

theorem byteSum_resetPayload (c : Config) :
    byteSum (resetPayload c) = 0x183 + (defaultModeValue c.defaultMode).toNat + c.resetTag.toNat := by
  have e : ∀ n (hn : n < 14), n ≠ 12 → n ≠ 13 → (resetPayload c)[n] = (defaultsPayload c.defaultMode)[n] :=
    fun n hn h12 h13 => resetPayload_get_other c ⟨n, hn⟩ (fun h => h12 (congrArg Fin.val h))
      (fun h => h13 (congrArg Fin.val h))
  have t : (resetPayload c)[12] = c.resetTag := resetPayload_get_tag c
  simp only [byteSum_eq, t]
  simp [e, defaultsPayload_eq]
  omega

/-- The payload after reset, for both default modes and every RESET_TAG (R110). -/
theorem resetPayload_eq (c : Config) : resetPayload c =
    #v[0x23, 0xCB, 0x26, 0x01, 0x00, 0x20, defaultModeValue c.defaultMode, 0x07, 0x38, 0, 0, 0x0F, c.resetTag,
      BitVec.ofNat 8 (0x183 + (defaultModeValue c.defaultMode).toNat + c.resetTag.toNat)] := by
  have hs : (resetPayload c)[13] =
      BitVec.ofNat 8 (0x183 + (defaultModeValue c.defaultMode).toNat + c.resetTag.toNat) := by
    have h := resetPayload_get_checksum c
    rw [cksum, byteSum_resetPayload] at h
    exact h
  have ht : (resetPayload c)[12] = c.resetTag := resetPayload_get_tag c
  apply Vector.ext
  intro i hi
  by_cases h12 : i = 12
  · subst h12; rw [ht]; rfl
  · by_cases h13 : i = 13
    · subst h13; rw [hs]; rfl
    · have h := resetPayload_get_other c ⟨i, hi⟩ (fun h => h12 (congrArg Fin.val h))
        (fun h => h13 (congrArg Fin.val h))
      rw [defaultsPayload_eq] at h
      refine Eq.trans h ?_
      clear h hs ht
      interval_cases i <;> first | rfl | omega

end Sys2Proof.Machine
end

