-- ==== Sys2Proof/Tests/Slice0.lean ====
section
/-! SUPPORT. The tests of the model and the witnesses of its statements.

Expected values come from 95_test_vectors.md of spec/ (the tables are named with each test). A witness shows
concrete states and operands that meet all hypotheses of one statement together. -/

namespace Sys2Proof.Tests

open Sys2Proof Sys2Proof.Machine

/-! ## Helpers -/

/-- The default parameters with the two OPEN ones at their least values. -/
def tcfg : Config := { Config.standard with capExtra := 0, minQuietUs := 0 }

/-- The block right after reset. -/
def base : State := State.resetWith tcfg

/-- The state after a step that goes on. -/
def after (o : Host.Outcome State Fault Refusal) : Option State :=
  match o with
  | .next t => some t
  | .fault _ => none
  | .refused _ => none

/-- One step on a state that is given one command word. -/
def give (w : Nat) (s : State) : Option State := after (step (s.withFetchWord 16 w))

/-- The payload of S1. -/
def s1 : Payload := #v[0x23, 0xCB, 0x26, 0x01, 0x00, 0x24, 0x05, 0x07, 0x38, 0x00, 0x00, 0x0F, 0x04, 0x90]

/-- The payload of S6: byte 13 corrupted by one. -/
def s6 : Payload := s1.set 13 0x91

/-- The spaces of the frame of S1, byte by byte, from the table of V8. -/
def spacesS1 : List Nat :=
  [500, 500, 1100, 500, 500, 500, 1100, 1100] ++ [1100, 1100, 500, 500, 1100, 500, 1100, 1100] ++
  [500, 500, 1100, 500, 500, 1100, 1100, 500] ++ [500, 500, 500, 500, 500, 500, 500, 1100] ++
  List.replicate 8 500 ++ [500, 500, 1100, 500, 500, 1100, 500, 500] ++
  [500, 500, 500, 500, 500, 1100, 500, 1100] ++ [500, 500, 500, 500, 500, 1100, 1100, 1100] ++
  [500, 500, 1100, 1100, 1100, 500, 500, 500] ++ List.replicate 16 500 ++
  [500, 500, 500, 500, 1100, 1100, 1100, 1100] ++ [500, 500, 500, 500, 500, 1100, 500, 500] ++
  [1100, 500, 500, 1100, 500, 500, 500, 500]

/-- Capture C_S1 of V8. -/
def capS1 : List Nat := [0, 3800, 1400] ++ spacesS1.flatMap (fun g => [600, g]) ++ [600]

/-- A block after reset with a record in the capture space. -/
def withCap (record : List Nat) : State := base.withCapture record true

/-- The edges of the default windows: marks at their lower bound, spaces at their upper bound, V9. -/
def capEdge (b : Payload) : List Nat :=
  [99999, 2850, 1750] ++ (payloadBits b).flatMap (fun bit => [450, if bit then 1375 else 625]) ++ [0]

/-- Whether a bit cell reads as a bit, as a test the kernel can run. -/
def cellReadsB (m : Matchers) (cap : List Nat) (k : Nat) (bit : Bool) : Bool :=
  match cap[3 + 2 * k]?, cap[4 + 2 * k]? with
  | some d, some g => m.mark d 600 && (m.space g 1100 == bit) && (m.space g 500 == !bit)
  | _, _ => false

theorem cellReads_of_test {m : Matchers} {cap : List Nat} {k : Nat} {bit : Bool}
    (h : cellReadsB m cap k bit = true) : cellReads m cap k bit := by
  simp only [cellReadsB] at h
  split at h
  · next d g hd hg =>
    simp only [Bool.and_eq_true, beq_iff_eq] at h
    exact ⟨d, g, hd, hg, h.1.1, h.1.2, h.2⟩
  · cases h

theorem headerReads_of_test {m : Matchers} {cap : List Nat} (h : headerMatches m cap = true) :
    headerReads m cap := (headerMatches_iff m cap).1 h

/-- What the cells of a record must be for it to read as a payload. -/
def readsAs (cap : List Nat) (a : Payload) : Prop :=
  ∀ k : Fin 112, cellReads (matchersOf tcfg) cap k.val (a[k.val / 8].getLsbD (7 - k.val % 8))

theorem capS1_reads : readsAs capS1 s1 := by
  have h : ∀ k : Fin 112, cellReadsB (matchersOf tcfg) capS1 k.val (s1[k.val / 8].getLsbD (7 - k.val % 8)) = true := by
    decide +kernel
  exact fun k => cellReads_of_test (h k)

theorem capEdge_reads : readsAs (capEdge s1) s1 := by
  have h : ∀ k : Fin 112,
      cellReadsB (matchersOf tcfg) (capEdge s1) k.val (s1[k.val / 8].getLsbD (7 - k.val % 8)) = true := by
    decide +kernel
  exact fun k => cellReads_of_test (h k)

theorem capS6_reads : readsAs (capS1.set 226 1100) s6 := by
  have h : ∀ k : Fin 112,
      cellReadsB (matchersOf tcfg) (capS1.set 226 1100) k.val (s6[k.val / 8].getLsbD (7 - k.val % 8)) = true := by
    decide +kernel
  exact fun k => cellReads_of_test (h k)

theorem capS1_decodes : decodeFrame (matchersOf tcfg) capS1 = .ok s1 := by
  rw [decodeFrame_bits _ _ s1 (by decide +kernel) (headerReads_of_test (by decide +kernel)) capS1_reads]
  rfl

/-- A successful DEC from the block after reset (S5). -/
theorem exec_dec_s1 : exec .dec (withCap capS1) = .next (afterDec s1 (withCap capS1)) :=
  execDec_ok (withCap capS1) s1 rfl rfl capS1_decodes

/-- A successful SET from the block after reset (S1). -/
theorem exec_set_s1 : exec (.set 0 1) base = .next (afterSet .powerState ⟨1, by decide⟩ base) := rfl

/-! ## WellFormed: the check refuses an illegal term that carries an assigned word -/

theorem test_wf_refuses_lstp_word : (Instr.illegal 0x1000).wf = false := by decide
theorem test_wf_refuses_lstl_word : (Instr.illegal 0x2300).wf = false := by decide
theorem test_wf_refuses_get_word : (Instr.illegal 0x3400).wf = false := by decide
theorem test_wf_refuses_set_word : (Instr.illegal 0x4FFF).wf = false := by decide
theorem test_wf_refuses_dump_word : (Instr.illegal 0x5000).wf = false := by decide
theorem test_wf_refuses_dec_word : (Instr.illegal 0x6000).wf = false := by decide
theorem test_wf_accepts_reserved_word : (Instr.illegal 0x7000).wf = true := by decide

/-! ## Decode: one word per row, bit by bit from R49 -/

theorem test_decode_lstp : decode 0b0001_0000_0000_0000 = .lstp := by decide
theorem test_decode_lstl : decode 0b0010_0101_0000_0000 = .lstl 5 := by decide
theorem test_decode_get : decode 0b0011_1001_0000_0000 = .get 9 := by decide
theorem test_decode_set : decode 0b0100_0010_0000_1111 = .set 2 15 := by decide
theorem test_decode_dump : decode 0b0101_0000_0000_0000 = .dump := by decide
theorem test_decode_dec : decode 0b0110_0000_0000_0000 = .dec := by decide
theorem test_decode_illegal : decode 0b0110_0001_0000_0000 = .illegal 0x6100 := by decide
theorem test_decodeTableWord_drops_high_bits : decodeTableWord 16 0x71000 = some .lstp := by decide
theorem test_encode_set : encode (.set 1 6) = 0x4106 := by decide

/-! ## Instructions: vectors of L1, V2, V4, V5, V6, V9 -/

theorem test_lstp : (give 0x1000 base).map (fun t => (t.status, t.resp, t.cmdIdx)) =
    some (0x00, [0, 1, 2, 3, 4, 5], 1) := by decide
theorem test_lstl_temperature : (give 0x2200 base).map (fun t => (t.status, t.resp)) =
    some (0x00, [0, 1, 2, 3, 4, 5, 6, 7, 8, 9, 10, 11, 12, 13, 14, 15]) := by decide
theorem test_lstl_unknown : (give 0x2F00 base).map (fun t => (t.status, t.resp)) = some (0x01, []) := by decide
theorem test_get_operationMode : (give 0x3100 base).map (fun t => (t.status, t.resp)) = some (0x00, [5]) := by
  decide
/-- V4: bits outside the mask are ignored. -/
theorem test_get_outside_mask : (give 0x3500 { base with p := base.p.set 11 0xF5 }).map (fun t => t.resp) =
    some [5] := by decide
theorem test_set_s1 : (give 0x4001 base).map (fun t => (t.p, t.status, t.resp)) = some (s1, 0x00, []) := by decide
/-- S4: TURBO then UP; each keeps the other's bits. -/
theorem test_set_s4 : ((give 0x4304 base).bind (give 0x4401)).map (fun t => t.p) =
    some #v[0x23, 0xCB, 0x26, 0x01, 0x00, 0x20, 0x05, 0x07, 0x0F, 0x00, 0x00, 0x0F, 0x19, 0x78] := by decide
theorem test_dump : (give 0x5000 base).map (fun t => t.resp) =
    some [0x23, 0xCB, 0x26, 0x01, 0x00, 0x20, 0x05, 0x07, 0x38, 0x00, 0x00, 0x0F, 0x00, 0x88] := by decide
/-- S5, through the step: the record C_S1 decodes to the payload of S1 with tag 0x04 known. -/
theorem test_dec_s5 : (give 0x6000 (withCap capS1)).map (fun t => (t.status, t.resp, t.rxTag)) =
    some (0x00, [0x23, 0xCB, 0x26, 0x01, 0x00, 0x24, 0x05, 0x07, 0x38, 0x00, 0x00, 0x0F, 0x04, 0x90, 0x01],
      some 0x04) := by decide +kernel
/-- S6: only CAP[226] differs, and the checksum fails. -/
theorem test_dec_s6 : (give 0x6000 (withCap (capS1.set 226 1100))).map (fun t => (t.status, t.resp, t.rxp)) =
    some (0x06, [], none) := by decide +kernel
theorem test_illegal : (give 0x9FFF base).map (fun t => (t.status, t.resp, t.p)) = some (0x07, [], base.p) := by
  decide
/-- V8: the frame of S1 is the carrier and then the durations of C_S1 from entry 1 on. -/
theorem test_send_s1 : segments (send s1) = capS1.tail := by decide +kernel
/-- V3: the text of DUMP after reset. -/
theorem test_dumpText : dumpText base.p.toList = "23 CB 26 01 00 20 05 07 38 00 00 0F 00 88" := by decide +kernel
/-- R57: the call `decode(raw)` first leaves the record in the capture space, then issues DEC. -/
theorem test_api_decode : apiInputs (.decode [1, 2]) = [.capture [1, 2] true, .command 0x6000] := by decide
/-- V3: a property name in the wrong case gives PROP 0xF. -/
theorem test_api_set : apiInputs (.set "powerState" "ON") = [.command 0x4001] ∧
    propOfName "Temperature" = 0xF := by decide

/-! ## Witnesses -/

/-- Two operand shapes of well-formed instructions, at the ends of their ranges. -/
theorem witness_DecodeOfEncodeIsIdentity :
    (Instr.set 15 255).wf = true ∧ (Instr.illegal 0x0000).wf = true ∧ (Instr.illegal 0xFFFF).wf = true := by decide

/-- A word of one row, and a word of none. -/
theorem witness_DecodeFollowsPatternTable :
    (lstpRow ∈ patterns ∧ (0x1000 : Word) &&& lstpRow.mask = lstpRow.value) ∧
    (∀ r ∈ patterns, (0x1001 : Word) &&& r.mask ≠ r.value) := by decide

theorem witness_LstlListsLabelCodes :
    ([2, 6, 16, 5, 6, 6] : List Nat)[(0 : Nibble).toNat]? = some 2 ∧
    ([2, 6, 16, 5, 6, 6] : List Nat)[(5 : Nibble).toNat]? = some 6 ∧
    5 < (6 : Nibble).toNat ∧ 5 < (15 : Nibble).toNat := by decide

/-- The first label and the last, one of them with other bits set in the byte. -/
theorem witness_GetReadsCurrentLabel :
    (base.p[Property.byteIndex .fanSpeed] &&& Property.mask .fanSpeed = Property.value .fanSpeed ⟨0, by decide⟩) ∧
    ((s1.set 11 0xF5)[Property.byteIndex .horizontalPosition] &&& Property.mask .horizontalPosition =
      Property.value .horizontalPosition ⟨5, by decide⟩) := by decide

theorem witness_GetAnswersEmptyLabel :
    ((0 : Nibble) = Property.code .powerState ∧
      ∀ c : Fin (Property.count .powerState), (s1.set 5 0x00)[Property.byteIndex .powerState] &&&
        Property.mask .powerState ≠ Property.value .powerState c) ∧
    5 < (6 : Nibble).toNat := by decide

/-- The least and the greatest value each mask can hold. -/
theorem witness_LookupInvertsValues :
    (∀ m : Byte, m ∈ ([0x24, 0x0F, 0x07, 0x38] : List Byte) → (0 : Byte) &&& m = 0 ∧ m &&& m = m) := by decide

theorem witness_ApplyWritesOnlyItsField :
    (7 : Fin 14) ≠ Property.byteIndex .fanSpeed ∧
    s1[Property.byteIndex .fanSpeed] &&& Property.mask .fanSpeed = Property.value .fanSpeed ⟨0, by decide⟩ ∧
    s1[8] = 0x38 ∧ (0 : Fin 14) ≠ 12 ∧ (11 : Fin 14) ≠ 13 ∧
    ∃ t, exec (.set (Property.code .powerState) (BitVec.ofNat 8 (⟨1, by decide⟩ : Fin 2).val)) base = .next t :=
  ⟨by decide, by decide, by decide, by decide, by decide, _, rfl⟩

/-- Two properties on one byte, with the SET and the two GETs of S4. -/
theorem witness_SetLeavesOtherFields :
    Property.fanSpeed ≠ Property.verticalPosition ∧
    ∃ t a b, exec (.set (Property.code .fanSpeed) 4) base = .next t ∧
      exec (.get (Property.code .verticalPosition)) base = .next a ∧
      exec (.get (Property.code .verticalPosition)) t = .next b := ⟨nofun, _, _, _, rfl, rfl, rfl⟩

/-- The state after S1 meets the invariant: one frame, of the payload it leaves. -/
theorem inv_after_s1 : Inv (afterSet .powerState ⟨1, by decide⟩ base) := by
  have hp : (afterSet .powerState ⟨1, by decide⟩ base).p = s1 := by decide
  have hl : (afterSet .powerState ⟨1, by decide⟩ base).txLog = send s1 := by
    show [] ++ send _ = send s1
    rw [← hp]; rfl
  refine ⟨?_, ?_, ?_, ?_, ⟨[s1], ?_, ?_, by simp, ?_⟩, by decide, .inl ⟨rfl, rfl, rfl, rfl⟩, by decide⟩
  · rw [hp]; unfold prefixHolds; decide
  · rw [hp]; intro q; cases q <;> decide
  · rw [hp]; unfold unownedClear; decide
  · rw [hp]; unfold sealed; decide
  · rw [hl]; simp
  · intro b hb
    rw [List.mem_singleton.1 hb]
    exact ⟨by unfold sealed; decide, .powerState, by decide⟩
  · intro b hb; rw [hp]; simpa using hb

/-- The bytes 5 and 11 are the ends of the range; the invariant holds after S1. -/
theorem witness_UnownedBitsStayClear :
    (∃ t, exec (.set 0 1) base = .next t) ∧ 5 ≤ (5 : Fin 14).val ∧ (11 : Fin 14).val ≤ 11 ∧
    Inv (afterSet .powerState ⟨1, by decide⟩ base) := ⟨⟨_, rfl⟩, by decide, by decide, inv_after_s1⟩

theorem witness_ChecksumSumsThirteenBytes :
    (0x05 : Byte) ≠ s1[12] ∧ (∃ t, exec (.set 0 1) base = .next t ∧ t.status = 0x00) ∧
    ∃ t, exec .dec (withCap capS1) = .next t ∧ t.status = 0x00 :=
  ⟨by decide, ⟨_, rfl, rfl⟩, _, exec_dec_s1, rfl⟩

theorem witness_ChecksumDetectsSingleByteChanges :
    ((12 : Fin 14).val ≤ 12 ∧ (0x05 : Byte) ≠ s1[(12 : Fin 14)]) ∧
    (s1[13] = cksum s1 ∧ (0x91 : Byte) ≠ s1[13] ∧ (matchersOf tcfg).M1 1 ∧ (matchersOf tcfg).M2) ∧
    ((0 : Fin 14).val ≤ 12 ∧ (12 : Fin 14).val ≤ 12 ∧ (0 : Fin 14) ≠ 12) ∧
    (∀ i : Fin 14, i.val ≤ 12 → (Vector.replicate 14 0x00 : Payload)[i] = 0x00) ∧
    (∀ i : Fin 14, i.val ≤ 12 → (Vector.replicate 14 0xFF : Payload)[i] = 0xFF) := by
  refine ⟨by decide, ⟨by decide, by decide, ⟨?_, ?_⟩, ?_⟩, by decide, by decide, by decide⟩
  · rintro e (rfl | rfl) - <;> decide
  · rintro e (rfl | rfl | rfl) - <;> decide
  · rintro d ⟨h1, h2⟩
    simp [matchersOf, tcfg, Config.standard, toleranceMatch, oneSpaceUs, zeroSpaceUs] at h1 h2
    omega

theorem witness_SetWritesFieldTagChecksumAndSends : base.txReady = true := by decide

/-- The last label code and one past it: SET temperature, 16 fails (V2). -/
theorem witness_FailedSetIsNoOp : ∃ t, exec (.set 2 16) base = .next t ∧ t.status ≠ 0x00 := ⟨_, rfl, by decide⟩

theorem witness_UnknownOperandsEndSet :
    5 < (6 : Nibble).toNat ∧ ([2, 6, 16, 5, 6, 6] : List Nat)[(2 : Nibble).toNat]? = some 16 ∧
    16 ≤ (16 : Byte).toNat ∧ ([2, 6, 16, 5, 6, 6] : List Nat)[(0 : Nibble).toNat]? = some 2 ∧
    2 ≤ (2 : Byte).toNat := by decide

theorem witness_TemperatureFieldDescends : 16 ≤ 16 ∧ 31 ≤ 31 ∧ base.txReady = true := by decide

theorem witness_TagAndChecksumWrittenOnlyBySet :
    (∃ t, exec (.set 0 1) base = .next t) ∧ (∃ t, exec .dump base = .next t) := ⟨⟨_, rfl⟩, ⟨_, rfl⟩⟩

theorem witness_PrefixBytesNeverWritten :
    (0 : Fin 14).val ≤ 4 ∧ (4 : Fin 14).val ≤ 4 ∧ (∃ t, exec (.set 0 1) base = .next t) ∧ prefixHolds base.p ∧
    ∃ t, step (base.withFetchWord 16 0x4001) = .next t :=
  ⟨by decide, by decide, ⟨_, rfl⟩, by unfold prefixHolds; decide, ⟨_, rfl⟩⟩

theorem witness_IllegalWordsHaveNoEffect :
    (State.resetWith { tcfg with rxPresent := false }).cfg.rxPresent = false := by decide

theorem witness_AssemblyInvertsSerialisation :
    decodeFrame (matchersOf tcfg) capS1 = .ok s1 ∧ (payloadBits s1).length = 112 :=
  ⟨capS1_decodes, length_payloadBits s1⟩

theorem witness_OnlySuccessfulSetTransmits :
    (∃ t, exec (.set 0 1) base = .next t) ∧ (∃ t, exec (.set 0 2) base = .next t) := ⟨⟨_, rfl⟩, ⟨_, rfl⟩⟩

/-- The record with every entry at an edge of its window, and the entries no check reads out of any. -/
theorem witness_DecSucceedsOnMatchingCapture :
    (withCap (capEdge s1)).cfg.rxPresent = true ∧ (withCap (capEdge s1)).capComplete = true ∧
    228 ≤ (withCap (capEdge s1)).cap.length ∧
    headerReads (matchersOf (withCap (capEdge s1)).cfg) (withCap (capEdge s1)).cap ∧
    readsAs (withCap (capEdge s1)).cap s1 ∧ s1[13] = cksum s1 :=
  ⟨rfl, rfl, by decide +kernel, headerReads_of_test (by decide +kernel), capEdge_reads, by decide⟩

/-- A record of 227 entries; a header mark one under its window (V9: 2849); a failing first cell (V9: CAP[3]
= 449) and a failing last cell; the record of S6. -/
theorem witness_DecReportsFirstFailingCheck :
    (withCap (capS1.take 227)).cap.length < 228 ∧
    (228 ≤ (capS1.set 1 2849).length ∧ ¬ headerReads (matchersOf tcfg) (capS1.set 1 2849)) ∧
    (headerReads (matchersOf tcfg) (capS1.set 3 449) ∧ cellFails (matchersOf tcfg) (capS1.set 3 449) 0) ∧
    (headerReads (matchersOf tcfg) (capS1.set 226 700) ∧
      (∀ j : Fin 112, j < 111 → ∃ bit, cellReads (matchersOf tcfg) (capS1.set 226 700) j.val bit) ∧
      cellFails (matchersOf tcfg) (capS1.set 226 700) 111) ∧
    (228 ≤ (capS1.set 226 1100).length ∧ headerReads (matchersOf tcfg) (capS1.set 226 1100) ∧
      readsAs (capS1.set 226 1100) s6 ∧ s6[13] ≠ cksum s6) := by
  refine ⟨by decide +kernel, ⟨by decide +kernel, ?_⟩, ⟨headerReads_of_test (by decide +kernel), ?_⟩,
    ⟨headerReads_of_test (by decide +kernel), ?_, ?_⟩,
    ⟨by decide +kernel, headerReads_of_test (by decide +kernel), capS6_reads, by decide⟩⟩
  · rw [← headerMatches_iff]; decide +kernel
  · exact ⟨449, 500, by decide +kernel, by decide +kernel, .inl (by decide)⟩
  · have h : ∀ j : Fin 112, j < 111 → cellReadsB (matchersOf tcfg) (capS1.set 226 700) j.val
        (s1[j.val / 8].getLsbD (7 - j.val % 8)) = true := by decide +kernel
    exact fun j hj => ⟨_, cellReads_of_test (h j hj)⟩
  · exact ⟨600, 700, by decide +kernel, by decide +kernel, .inr (by decide)⟩

/-- RAWLEN = 0 (V9). -/
theorem witness_FailedDecKeepsReceiveState : ∃ t, exec .dec base = .next t ∧ t.status ≠ 0x00 :=
  ⟨_, rfl, by decide⟩

/-- C_S1 and a record that differs in CAP[0] and CAP[227] and has 72 more entries (V9). -/
theorem witness_DecIgnoresUnreadEntries :
    (∃ t, exec .dec (withCap capS1) = .next t) ∧
    exec .dec (base.withCapture capS1 false) = .refused .captureUnstable ∧
    228 ≤ capS1.length ∧ 228 ≤ (((capS1.set 0 99999).set 227 0) ++ List.replicate 72 7).length ∧
    ∀ j : Nat, 1 ≤ j → j ≤ 226 → capS1[j]? = (((capS1.set 0 99999).set 227 0) ++ List.replicate 72 7)[j]? := by
  refine ⟨⟨_, exec_dec_s1⟩, rfl, by decide +kernel, by decide +kernel, ?_⟩
  have h : ∀ j : Fin 227, 1 ≤ j.val →
      capS1[j.val]? = (((capS1.set 0 99999).set 227 0) ++ List.replicate 72 7)[j.val]? := by decide +kernel
  exact fun j h1 h2 => h ⟨j, by omega⟩ h1

theorem witness_SendThenDecRoundTrip :
    (matchersOf tcfg).M1 1 ∧ (matchersOf tcfg).M2 ∧ s1[13] = cksum s1 ∧
    configOk (withCap (0 :: segments (send s1))).cfg = true ∧
    (withCap (0 :: segments (send s1))).cfg.rawTickUs = 1 ∧
    (withCap (0 :: segments (send s1))).cfg.rxPresent = true ∧
    (withCap (0 :: segments (send s1))).capComplete = true ∧
    (withCap (0 :: segments (send s1))).cap = 0 :: segments (send s1) := by
  obtain ⟨-, ⟨-, -, h1, h2⟩, -⟩ := witness_ChecksumDetectsSingleByteChanges
  exact ⟨h1, h2, by decide, by decide, rfl, rfl, rfl, rfl⟩

/-- A substitute with asymmetric windows (R66), and the two sides of the bound 37 (V9). -/
def asymmetric : Windows := ⟨⟨3000, 5000⟩, ⟨1000, 1500⟩, ⟨500, 900⟩, ⟨800, 1200⟩, ⟨300, 600⟩⟩

theorem witness_MatchersMeetSpecConditions :
    tcfg.matcher = .tolerance 25 ∧ tcfg.rawTickUs = 1 ∧ configOk tcfg = true ∧
    configOk { tcfg with matcher := .tolerance 37 } = true ∧
    configOk { tcfg with matcher := .windows asymmetric } = true ∧ 37 ≤ 100 ∧ 38 ≤ 100 := by decide

theorem witness_ReceiveRegistersWrittenOnlyBySuccessfulDec :
    (∃ t, exec .dec (withCap capS1) = .next t) ∧
    (∃ t, exec .lstp (afterDec s1 (withCap capS1)) = .next t) ∧
    (afterDec s1 (withCap capS1)).rxValid = true := ⟨⟨_, exec_dec_s1⟩, ⟨_, rfl⟩, rfl⟩

theorem witness_ReceiveReadsFaultUntilFirstDec :
    base.rxValid = false ∧ ∃ t, exec .dec (withCap capS1) = .next t ∧ t.status = 0x00 :=
  ⟨rfl, _, exec_dec_s1, rfl⟩

theorem witness_InterpretClassifiesTags :
    (0x00 : Byte) ∉ ([0x04, 0x08, 0x09, 0x0C, 0x0D, 0x10, 0x14, 0x18, 0x19, 0x1C, 0x1D, 0x24] : List Byte) ∧
    (0xFF : Byte) ∉ ([0x04, 0x08, 0x09, 0x0C, 0x0D, 0x10, 0x14, 0x18, 0x19, 0x1C, 0x1D, 0x24] : List Byte) := by
  decide

theorem witness_CommandIndexCountsCommands :
    (∃ t, exec (.set 0 1) base = .next t) ∧ (∃ t, exec (.illegal 0) base = .next t) := ⟨⟨_, rfl⟩, ⟨_, rfl⟩⟩

theorem witness_ResponseFollowsStatus :
    (∃ t, exec .lstp base = .next t) ∧ (∃ t, exec (.lstl 5) base = .next t) ∧
    (∃ t, exec (.get 6) base = .next t) ∧ (∃ t, exec (.set 0 1) base = .next t) ∧
    (∃ t, exec .dump base = .next t) ∧ (∃ t, exec .dec (withCap capS1) = .next t) ∧
    (∃ t, exec (.illegal 0) base = .next t) :=
  ⟨⟨_, rfl⟩, ⟨_, rfl⟩, ⟨_, rfl⟩, ⟨_, rfl⟩, ⟨_, rfl⟩, ⟨_, exec_dec_s1⟩, ⟨_, rfl⟩⟩

theorem witness_CommandsLeavePlatformState :
    (∃ t, exec (.set 0 1) (withCap capS1) = .next t) ∧ (∃ t, exec .dec (withCap capS1) = .next t) :=
  ⟨⟨_, rfl⟩, ⟨_, exec_dec_s1⟩⟩

theorem witness_OnlyDecReadsCapture : Instr.set 0 1 ≠ .dec ∧ ∃ t, exec (.set 0 1) base = .next t :=
  ⟨nofun, _, rfl⟩

/-- Both refusals of a command happen. -/
theorem witness_CommandsRefusedOnlyForBrokenDuties :
    exec .dec (base.withCapture [] false) = .refused .captureUnstable ∧
    exec (.set 0 1) (base.withTxReady false) = .refused .txPrimitiveNotReady := ⟨rfl, rfl⟩

theorem witness_BrokenDutiesAreRefused :
    (base.withCapture [] false).cfg.rxPresent = true ∧ (base.withCapture [] false).capComplete = false ∧
    (base.withTxReady false).txReady = false := by decide

/-- A block that has run and one that has just lost power, both about to power up. -/
theorem witness_PowerUpForgetsEverything :
    configOk base.cfg = true ∧ base.afterPowerLoss.cfg = base.cfg ∧ base.afterPowerLoss.cap = base.cap ∧
    base.afterPowerLoss.capComplete = base.capComplete ∧
    (base.withInputs [.powerUp]).inputs = .powerUp :: [] ∧
    (base.afterPowerLoss.withInputs [.powerUp]).inputs = .powerUp :: [] := by decide

/-- A block that has sent a frame and one that has not, both about to lose power with a command waiting. -/
theorem witness_PowerLossForgetsEverything :
    let s := (afterSet .powerState ⟨1, by decide⟩ base).withInputs [.powerLoss, .command 0x1000]
    let s' := base.withInputs [.powerLoss, .command 0x1000]
    configOk s.cfg = true ∧ s'.cfg = s.cfg ∧ s'.cap = s.cap ∧ s'.capComplete = s.capComplete ∧
      s'.txReady = s.txReady ∧ s.inputs = .powerLoss :: [.command 0x1000] ∧
      s'.inputs = .powerLoss :: [.command 0x1000] ∧ s.p ≠ s'.p :=
  ⟨rfl, rfl, rfl, rfl, rfl, rfl, rfl, by decide⟩

theorem witness_CommandBeforeResetIsRefused :
    configOk (base.afterPowerLoss.withInputs [.command 0x1000]).cfg = true ∧
    (base.afterPowerLoss.withInputs [.command 0x1000]).resetDone = false ∧
    (base.afterPowerLoss.withInputs [.command 0x1000]).inputs = .command 0x1000 :: [] := by decide

/-- TOL_PCT = 38, and a substitute whose two space windows share the duration 690. -/
theorem witness_ConfigurationOutsideSpecIsRefused :
    (State.resetWith { tcfg with matcher := .tolerance 38 }).cfg.matcher = .tolerance 38 ∧ 37 < 38 ∧
    ¬ ((matchersOf { tcfg with matcher := .windows { asymmetric with zeroSpace := ⟨300, 800⟩ } }).M1 1 ∧
      (matchersOf { tcfg with matcher := .windows { asymmetric with zeroSpace := ⟨300, 800⟩ } }).M2) := by
  refine ⟨rfl, by decide, ?_⟩
  rintro ⟨-, h⟩
  exact h 800 ⟨by decide, by decide⟩

theorem witness_StepRunsDecodedCommand :
    configOk (base.withFetchWord 16 0x4001).cfg = true ∧ (base.withFetchWord 16 0x4001).resetDone = true ∧
    (base.withFetchWord 16 0x4001).inputs = .command 0x4001 :: [] := by decide

/-- A record of exactly CAP_MAX entries at the greatest RAW_W value fits; one entry more, or one value more,
does not. -/
theorem witness_PlatformInputsChangeOnlyTheirState :
    configOk base.cfg = true ∧ base.inputs = [] ∧
    ((List.replicate 228 (2 ^ 32 - 1)).length ≤ base.cfg.capMax ∧
      ∀ d ∈ List.replicate 228 (2 ^ 32 - 1), d < 2 ^ base.cfg.rawWidth) ∧
    base.cfg.capMax < (List.replicate 229 0).length ∧ (∃ d ∈ [2 ^ 32], 2 ^ base.cfg.rawWidth ≤ d) ∧
    (base.withInputs [.capture [2 ^ 32] true]).inputs = .capture [2 ^ 32] true :: [] ∧
    (base.withInputs [.txPrimitive false]).inputs = .txPrimitive false :: [] ∧
    (base.withInputs [.powerLoss]).inputs = .powerLoss :: [] := by
  refine ⟨by decide, rfl, ⟨by decide +kernel, ?_⟩, by decide +kernel, by decide, rfl, rfl, rfl⟩
  intro d hd
  rw [List.eq_of_mem_replicate hd]
  decide

theorem witness_StepNeverFaultsNorReconfigures : ∃ t, step (base.withFetchWord 16 0x4001) = .next t := ⟨_, rfl⟩

/-- A state with a frame sent, and a step that sends another. -/
theorem witness_StepKeepsInv :
    Inv (afterSet .powerState ⟨1, by decide⟩ base) ∧
    Inv (State.withInputs (afterSet .powerState ⟨1, by decide⟩ base) [.command 0x4102]) ∧
    ∃ t, step (State.withInputs (afterSet .powerState ⟨1, by decide⟩ base) [.command 0x4102]) = .next t := by
  have h := inv_after_s1
  exact ⟨h, ⟨h.1, h.2, h.3, h.4, h.5, h.6, h.7, h.8⟩, _, rfl⟩

theorem witness_SetsTransmitInIssueOrder :
    State.running (base.withInputs (setWords [⟨.powerState, ⟨1, by decide⟩⟩, ⟨.operationMode, ⟨2, by decide⟩⟩])) ∧
    (base.withInputs (setWords [⟨.powerState, ⟨1, by decide⟩⟩])).txReady = true ∧
    setWords [⟨.powerState, ⟨1, by decide⟩⟩, ⟨.operationMode, ⟨2, by decide⟩⟩] =
      [.command 0x4001, .command 0x4102] := ⟨⟨by decide, rfl⟩, rfl, by decide⟩

theorem witness_PropertyNamesMapExactly : ∀ q : Property, "Temperature" ≠ q.name := by
  intro q; cases q <;> decide

theorem witness_LabelStringsMapExactly :
    ∀ c : Fin (Property.count .powerState), labelOfName .powerState "Off" ≠ BitVec.ofNat 8 c.val := by decide

end Sys2Proof.Tests
end

section
/-! PROOF. The order of the bits of a frame and the two events of a bit cell (R59, R60, R69). -/

namespace Sys2Proof.Machine

/-- The mark of a bit cell does not depend on the bit (R59). -/
theorem send_cellMark (b : Payload) (k : Fin 112) : (send b)[3 + 2 * k.val]? = some (.mark 600) :=
  send_cell b k 0 (by decide)

/-- The space of a bit cell carries the bit (R59). -/
theorem send_cellSpace (b : Payload) (k : Fin 112) :
    (send b)[4 + 2 * k.val]? =
      some (.space (if b[k.val / 8].getLsbD (7 - k.val % 8) then 1100 else 500)) := by
  have index : 4 + 2 * k.val = 3 + (2 * k.val + 1) := by omega
  rw [index]
  exact send_cell b k 1 (by decide)

/-- The decoder's bit map is the sender's in reverse (R60, R69). -/
theorem assemble_payloadBits (b : Payload) : assemble (payloadBits b) = b :=
  assemble_eq _ _ (payloadBits_get b)

/-- Settles O23, from the bits of a payload, the two events of a bit cell, and assembly as the inverse of
the bit order. -/
theorem frameBitsAreMsbFirst : Obligations.FrameBitsAreMsbFirst :=
  ⟨fun b k => ⟨payloadBits_get b k, send_cellMark b k, send_cellSpace b k⟩,
    fun b => ⟨length_payloadBits b, assemble_payloadBits b⟩⟩

end Sys2Proof.Machine
end

section
/-! PROOF. The assembler's test vectors (R57, V3). -/

namespace Sys2Proof.Machine

/-- Settles O57: every line is a literal, so the assembler evaluates it to its word. -/
theorem assemblerGivesSpecWords : Obligations.AssemblerGivesSpecWords := by
  unfold Obligations.AssemblerGivesSpecWords
  decide

end Sys2Proof.Machine
end

section
/-! PROOF. Bit assembly against the serialisation order (R69), and what a successful decode says about the
captured spaces. -/

namespace Sys2Proof.Machine

/-- Bit `7 - (k mod 8)` of byte `k div 8` of an assembled payload is bit k of the frame (R69). -/
theorem assemble_bit (bits : List Bool) (k : Fin 112) :
    (assemble bits)[k.val / 8].getLsbD (7 - k.val % 8) = bits.getD k.val false := by
  have index : 8 * (k.val / 8) + k.val % 8 = k.val := by omega
  rw [assemble, Vector.getElem_ofFn, assembleByte_bit _ _ _ (Nat.mod_lt _ (by decide)), index]

/-- A frame of 112 bits can be read back from the payload it assembles to (R60, R69). -/
theorem getElem?_eq_assemble_bit (bits : List Bool) (hlen : bits.length = 112) (k : Fin 112) :
    bits[k.val]? = some ((assemble bits)[k.val / 8].getLsbD (7 - k.val % 8)) := by
  have hk : k.val < bits.length := by rw [hlen]; exact k.isLt
  rw [assemble_bit, List.getD_eq_getElem _ _ hk, List.getElem?_eq_getElem hk]

/-- A decode that succeeds answers the assembly of the bits its cell loop read (R68 steps 3 and 4). -/
theorem decodeFrame_ok {m : Matchers} {cap : List Nat} {a : Payload} (h : decodeFrame m cap = .ok a) :
    ∃ bits, readCells m cap nBits 0 = .ok bits ∧ assemble bits = a := by
  simp only [decodeFrame] at h
  split at h
  · cases h
  · split at h
    · cases h
    · split at h
      · cases h
      · next bits hbits =>
        split at h
        · exact ⟨bits, hbits, Except.ok.inj h⟩
        · cases h

/-- Each bit of a decoded payload is what its cell of the capture record reads as (R68 step 3, R69). -/
theorem cellReads_of_decodeFrame_ok {m : Matchers} {cap : List Nat} {a : Payload}
    (h : decodeFrame m cap = .ok a) (k : Fin 112) :
    cellReads m cap k.val (a[k.val / 8].getLsbD (7 - k.val % 8)) := by
  obtain ⟨bits, hbits, rfl⟩ := decodeFrame_ok h
  obtain ⟨hlen, hall⟩ := readCells_reads m cap nBits 0 bits hbits
  have hk : k.val < bits.length := by rw [hlen]; exact k.isLt
  have hcell := hall k.val hk
  rw [Nat.zero_add] at hcell
  rwa [assemble_bit, List.getD_eq_getElem _ _ hk]

/-- Settles O24: a decoded bit is what its cell reads as, and assembly reverses the bit order both ways. -/
theorem assemblyInvertsSerialisation : Obligations.AssemblyInvertsSerialisation := by
  refine ⟨?_, getElem?_eq_assemble_bit, assemble_payloadBits⟩
  intro m cap a h k
  obtain ⟨-, g, -, hg, -, hone, hzero⟩ := cellReads_of_decodeFrame_ok h k
  exact ⟨g, hg, hone.symm, by simp [hzero]⟩

end Sys2Proof.Machine
end

section
/-! PROOF. Which commands write TXLOG (R64). -/

namespace Sys2Proof.Machine

/-- OK alone has the code 0 (R94). -/
theorem Status.code_eq_zero_iff (st : Status) : st.code = 0x00 ↔ st = .ok := by
  cases st <;> decide

/-- A successful SET appends the frame of the payload it leaves (R64, R85). -/
theorem afterSet_txLog (q : Property) (c : Fin q.count) (s : State) :
    (afterSet q c s).txLog = s.txLog ++ send (afterSet q c s).p := rfl

/-- A successful DEC emits nothing (R64). -/
theorem afterDec_txLog (a : Payload) (s : State) : (afterDec a s).txLog = s.txLog := rfl

/-- Settles O27, by the three ways a command can complete: it only ends with a status and a response, it is
a successful SET, or it is a successful DEC. -/
theorem onlySuccessfulSetTransmits : Obligations.OnlySuccessfulSetTransmits := by
  refine ⟨resetWith_txLog, ?_⟩
  intro i s t h
  rcases exec_cases h with ⟨st, resp, rfl, hok⟩ | ⟨q, c, hi, -, rfl⟩ | ⟨a, rfl, -, rfl⟩
  · refine .inr ⟨?_, finish_txLog s st resp⟩
    rw [finish_status, ne_eq, Status.code_eq_zero_iff]
    by_cases hst : st = .ok
    · exact .inl (hok hst).1
    · exact .inr hst
  · exact .inl ⟨⟨_, _, hi⟩, rfl, afterSet_txLog q c s⟩
  · exact .inr ⟨.inl nofun, afterDec_txLog a s⟩

end Sys2Proof.Machine
end

section
/-! PROOF. The masked write APPLY (R76): the byte it writes, all that it leaves, and its two invokers, SET
(R84) and the reset sequence (R107). -/

namespace Sys2Proof.Machine

/-- A masked write leaves every bit outside the mask: a value inside the mask cannot reach there (R22, R76). -/
theorem maskedWrite_and_not_mask (x m v : Byte) (h : v &&& m = v) :
    ((x &&& ~~~m) ||| v) &&& ~~~m = x &&& ~~~m :=
  maskedWrite_and_other x m v (~~~m) h (BitVec.and_not_self m)

/-- A masked write of the bits already under the mask changes nothing. -/
theorem maskedWrite_and_mask_self (x m : Byte) : (x &&& ~~~m) ||| (x &&& m) = x := by
  rw [← BitVec.and_or_distrib_left, BitVec.not_or_self, BitVec.and_allOnes]

/-- APPLY writes its property's byte by the formula of R76. -/
theorem applyLabel_get_field (q : Property) (c : Fin q.count) (p : Payload) :
    (applyLabel q c p)[q.byteIndex] = (p[q.byteIndex] &&& ~~~q.mask) ||| q.value c := by
  rw [applyLabel_get, if_pos rfl]

/-- APPLY leaves every other byte (R76). -/
theorem applyLabel_get_other (q : Property) (c : Fin q.count) (p : Payload) {j : Fin 14}
    (h : j ≠ q.byteIndex) : (applyLabel q c p)[j] = p[j] := by
  rw [applyLabel_get, if_neg h.symm]

/-- No property's byte lies beyond byte 11, so the tag and the checksum are none (R20, R39). -/
theorem ne_byteIndex_of_gt (q : Property) {j : Fin 14} (h : 11 < j.val) : j ≠ q.byteIndex := by
  have hq := byteIndex_range q
  rintro rfl
  omega

/-- APPLY of the label already present changes nothing (R76). -/
theorem applyLabel_eq_self (q : Property) (c : Fin q.count) (p : Payload)
    (h : p[q.byteIndex] &&& q.mask = q.value c) : applyLabel q c p = p := by
  have bytes : ∀ j : Fin 14, (applyLabel q c p)[j] = p[j] := by
    intro j
    by_cases hj : j = q.byteIndex
    · rw [hj, applyLabel_get_field, ← h, maskedWrite_and_mask_self]
    · exact applyLabel_get_other q c p hj
  exact Vector.ext fun i hi => bytes ⟨i, hi⟩

/-- A SET of a known property and label that completes leaves the payload of R84. -/
theorem exec_set_known_payload {q : Property} {c : Fin q.count} {s t : State}
    (h : exec (.set q.code (BitVec.ofNat 8 c.val)) s = .next t) : t.p = setPayload q c s.p := by
  change execSet q.code (BitVec.ofNat 8 c.val) s = .next t at h
  cases hready : s.txReady with
  | true =>
    rw [execSet_known q c s hready] at h
    cases h
    rfl
  | false => simp [execSet, hready] at h

/-- Settles O10: the written byte follows from the masked-write lemmas and R22(a), and both invokers only
seal what APPLY left, which writes the tag and the checksum alone. -/
theorem applyWritesOnlyItsField : Obligations.ApplyWritesOnlyItsField := by
  refine ⟨?_, ?_, ?_, ?_⟩
  · intro q c p
    have field := applyLabel_get_field q c p
    have inside := value_and_mask q c
    refine ⟨field, fieldValue_applyLabel_same q c p, ?_, fun j hj => applyLabel_get_other q c p hj,
      applyLabel_get_other q c p (ne_byteIndex_of_gt q (j := 12) (by decide)),
      applyLabel_get_other q c p (ne_byteIndex_of_gt q (j := 13) (by decide)), applyLabel_eq_self q c p⟩
    rw [field, maskedWrite_and_not_mask _ _ _ inside]
  · intro p hp
    have field : (applyLabel .fanSpeed ⟨4, by decide⟩ p)[8] = (p[8] &&& ~~~0x07) ||| 0x07 :=
      applyLabel_get_field .fanSpeed ⟨4, by decide⟩ p
    rw [field, hp]
    decide
  · intro q c s t j h12 h13 h
    rw [exec_set_known_payload h, setPayload, sealPayload_get_other _ _ _ h12 h13]
  · exact fun c j h12 h13 => resetPayload_get_other c j h12 h13

end Sys2Proof.Machine
end

section
/-! PROOF. The checksum CKSUM (R81): its value, what it reads and what it depends on, and its three invokers,
SET (R84), DEC (R68) and the reset sequence (R108). -/

namespace Sys2Proof.Machine

/-- CKSUM keeps the low 8 bits of the byte sum (R81). -/
theorem cksum_toNat (b : Payload) : (cksum b).toNat = byteSum b % 256 := BitVec.toNat_ofNat _ _

/-- Thirteen bytes of at most 255 each (R81). -/
theorem byteSum_le (b : Payload) : byteSum b ≤ 3315 := by
  have byte_le : ∀ n ∈ (b.toList.take 13).map BitVec.toNat, n ≤ 255 := by
    intro n hn
    obtain ⟨x, -, rfl⟩ := List.mem_map.1 hn
    exact Nat.le_of_lt_succ x.isLt
  simpa [byteSum] using List.sum_le_card_nsmul _ 255 byte_le

/-- CKSUM does not read B[13] (R81). -/
theorem cksum_set_checksumByte (b : Payload) (v : Byte) : cksum (b.set 13 v) = cksum b := by
  apply cksum_congr
  intro i hi
  exact Vector.getElem_set_ne _ _ fun h => hi (Fin.ext h.symm)

/-- Changing one of the thirteen bytes changes CKSUM: the sum moves by less than 256 (R81, R83). -/
theorem cksum_set_ne (b : Payload) (i : Fin 14) (v : Byte) (hi : i.val ≤ 12) (hv : v ≠ b[i]) :
    cksum (b.set i v) ≠ cksum b := by
  intro heq
  have residues : byteSum (b.set i v) % 256 = byteSum b % 256 := by rw [← cksum_toNat, heq, cksum_toNat]
  have change := byteSum_set b i v hi
  have bytes_ne : v.toNat ≠ b[i].toNat := fun h => hv (BitVec.eq_of_toNat_eq h)
  have newByte_lt := v.isLt
  have oldByte_lt := b[i].isLt
  omega

/-- The bytes of the default reset payload (R110) sum to 0x188, whatever its last byte (R81). -/
theorem byteSum_resetBytes (v : Byte) :
    byteSum #v[0x23, 0xCB, 0x26, 0x01, 0x00, 0x20, 0x05, 0x07, 0x38, 0x00, 0x00, 0x0F, 0x00, v] = 0x188 := by
  simp [byteSum_eq]

/-- A SET that ends with OK leaves the payload sealed by its own checksum (R82, R84). -/
theorem sealed_of_exec_set_ok {p : Nibble} {l : Byte} {s t : State} (h : exec (.set p l) s = .next t)
    (hok : t.status = 0x00) : sealed t.p := by
  rcases exec_cases h with ⟨st, resp, rfl, hnot⟩ | ⟨q, c, -, -, rfl⟩ | ⟨a, hdec, -, -⟩
  · rw [finish_status, Status.code_eq_zero_iff] at hok
    exact absurd rfl ((hnot hok).1 p l)
  · exact sealPayload_get_checksum q.tag _
  · cases hdec

/-- A DEC that ends with OK leaves a received payload that carries its checksum (R68, R81). -/
theorem exec_dec_ok_rxp {s t : State} (h : exec .dec s = .next t) (hok : t.status = 0x00) :
    ∃ a : Payload, t.rxp = some a ∧ sealed a := by
  rcases exec_cases h with ⟨st, resp, rfl, hnot⟩ | ⟨q, c, hset, -, -⟩ | ⟨a, -, ha, rfl⟩
  · rw [finish_status, Status.code_eq_zero_iff] at hok
    exact absurd rfl (hnot hok).2
  · cases hset
  · exact ⟨a, rfl, ha⟩

/-- Settles O13: the value and the bound come from the byte sum, the dependence from the change of one byte,
and each invoker from its inversion lemma. -/
theorem checksumSumsThirteenBytes : Obligations.ChecksumSumsThirteenBytes := by
  refine ⟨?_, ?_, fun _ _ _ _ => sealed_of_exec_set_ok, fun _ _ => exec_dec_ok_rxp, resetPayload_get_checksum⟩
  · intro b
    refine ⟨?_, byteSum_le b, cksum_set_checksumByte b, fun v hv => cksum_set_ne b 12 v (by decide) hv⟩
    rw [cksum_toNat, byteSum_eq]
    simp only [Nat.add_assoc]
  · exact fun v => ⟨byteSum_resetBytes v, by rw [cksum, byteSum_resetBytes]; rfl⟩

end Sys2Proof.Machine
end

section
/-! PROOF. What a command that ends with an error leaves: all but STATUS, RESP and CMDIDX (R71, R86, R95). -/

namespace Sys2Proof.Machine

/-- A command that ends with an error has only ended: a successful SET and a successful DEC end with OK
(R84, R68). -/
theorem exec_error_eq_finish {i : Instr} {s t : State} (h : exec i s = .next t) (herr : t.status ≠ 0x00) :
    ∃ st resp, t = s.finish st resp := by
  rcases exec_cases h with ⟨st, resp, rfl, -⟩ | ⟨q, c, -, -, rfl⟩ | ⟨a, -, -, rfl⟩
  · exact ⟨st, resp, rfl⟩
  · exact absurd (finish_status _ .ok _) herr
  · exact absurd (finish_status _ .ok _) herr

/-- The end of a command writes STATUS, RESP and CMDIDX alone (R7). -/
theorem finish_eq_update (s : State) (st : Status) (resp : List Byte) :
    s.finish st resp = { s with
      status := (s.finish st resp).status, resp := (s.finish st resp).resp,
      cmdIdx := (s.finish st resp).cmdIdx } := rfl

/-- Settles O16: a SET that ends with an error has only ended, which writes STATUS, RESP and CMDIDX alone. -/
theorem failedSetIsNoOp : Obligations.FailedSetIsNoOp := by
  intro p l s t h herr
  obtain ⟨st, resp, rfl⟩ := exec_error_eq_finish h herr
  exact ⟨finish_eq_update s st resp, finish_p s st resp, finish_txLog s st resp⟩

end Sys2Proof.Machine
end

section
/-! PROOF. The command word (R47 to R49, R53, R88): decoder and encoder are inverse to each other, and the
pattern table read row by row. -/

namespace Sys2Proof.Machine

/-- A word is a packed word exactly when it has its three fields (R47). -/
theorem eq_packWord_iff (w : Word) (op prop : Nibble) (lbl : Byte) :
    w = packWord op prop lbl ↔ opField w = op ∧ propField w = prop ∧ lblField w = lbl := by
  constructor
  · rintro rfl; simp
  · rintro ⟨rfl, rfl, rfl⟩; exact (packWord_fields w).symm

theorem toNat_beq_zero {n : Nat} (x : BitVec n) : (x.toNat == 0) = decide (x = 0) := by
  simp [beq_eq_decide, ← BitVec.toNat_inj]

/-- The assigned words by their fields (R48, R49): OP 1, 5 and 6 fix PROP and LBL, OP 2 and 3 fix LBL. -/
theorem wordIsAssigned_iff (w : Word) : wordIsAssigned w = true ↔
    ((opField w = 1 ∨ opField w = 5 ∨ opField w = 6) ∧ propField w = 0 ∧ lblField w = 0) ∨
    ((opField w = 2 ∨ opField w = 3) ∧ lblField w = 0) ∨ opField w = 4 := by
  have prop_zero : ((w.extractLsb' 8 4).toNat == 0) = decide (propField w = 0) := toNat_beq_zero (propField w)
  have lbl_zero : ((w.extractLsb' 0 8).toNat == 0) = decide (lblField w = 0) := toNat_beq_zero (lblField w)
  have op_nat : (w.extractLsb' 12 4).toNat = (opField w).toNat := rfl
  simp only [wordIsAssigned, prop_zero, lbl_zero, op_nat]
  generalize opField w = op
  by_cases hp : propField w = 0 <;> by_cases hl : lblField w = 0 <;> simp only [hp, hl] <;> revert op <;> decide

/-- The words that read as illegal are those no command owns (R53, R88). -/
theorem decode_eq_illegal_iff (w : Word) : decode w = .illegal w ↔ wordIsAssigned w = false := by
  rw [← Bool.not_eq_true, wordIsAssigned_iff, decode_by_fields]
  split_ifs <;> grind

/-- Decoding the word of a well-formed instruction gives it back (R48, R49). -/
theorem decode_encode {i : Instr} (h : i.wf = true) : decode (encode i) = i := by
  cases i with
  | illegal w =>
    have unassigned : wordIsAssigned w = false := by simpa [Instr.wf] using h
    exact (decode_eq_illegal_iff w).2 unassigned
  | lstp => simp [encode, decode_by_fields]
  | lstl p => simp [encode, decode_by_fields]
  | get p => simp [encode, decode_by_fields]
  | set p l => simp [encode, decode_by_fields]
  | dump => simp [encode, decode_by_fields]
  | dec => simp [encode, decode_by_fields]

/-- A word is the word of what it decodes to (R48, R49). -/
theorem encode_decode (w : Word) : encode (decode w) = w := by
  rw [decode_by_fields]
  split_ifs <;> simp_all [encode, eq_comm, eq_packWord_iff]

/-- What a word decodes to is well formed: only an unassigned word is illegal (R53). -/
theorem decode_wf (w : Word) : (decode w).wf = true := by
  cases hd : decode w with
  | illegal v =>
    obtain rfl : v = w := by simpa [hd, encode] using encode_decode w
    simpa [Instr.wf] using (decode_eq_illegal_iff v).1 hd
  | _ => rfl

/-- A word reads as an instruction exactly when it is the word of that instruction. -/
theorem decode_eq_iff {i : Instr} (h : i.wf = true) (w : Word) : decode w = i ↔ w = encode i := by
  constructor
  · rintro rfl; exact (encode_decode w).symm
  · rintro rfl; exact decode_encode h

/-- Settles O1: each word is a literal. -/
theorem decodeReadsSpecWords : Obligations.DecodeReadsSpecWords := by
  unfold Obligations.DecodeReadsSpecWords
  decide

/-- Settles O2: the packed fields decide which row accepts the word. -/
theorem decodeOfEncodeIsIdentity : Obligations.DecodeOfEncodeIsIdentity := fun _ => decode_encode

/-- Settles O3: each row the decoder takes fixes the fields the encoder packs. -/
theorem encodeOfDecodeIsIdentity : Obligations.EncodeOfDecodeIsIdentity :=
  fun w => ⟨decode_wf w, encode_decode w⟩

/-! ### The pattern table -/

/-- A row that fixes OP and LBL and leaves PROP accepts the words of its command (R49). -/
theorem and_F0FF_eq_iff (w : Word) (op p : Nibble) :
    (w &&& 0xF0FF = packWord op 0 0 ∧ p = propField w) ↔ w = packWord op p 0 := by
  rw [(and_fieldMasks w).1, eq_packWord_iff w op]
  constructor
  · rintro ⟨h, rfl⟩
    obtain ⟨hop, -, hlbl⟩ := packWord_inj h
    exact ⟨hop, rfl, hlbl⟩
  · rintro ⟨rfl, rfl, h⟩
    exact ⟨by rw [h], rfl⟩

/-- The row that fixes OP alone accepts the words of its command (R49). -/
theorem and_F000_eq_iff (w : Word) (op p : Nibble) (l : Byte) :
    (w &&& 0xF000 = packWord op 0 0 ∧ p = propField w ∧ l = lblField w) ↔ w = packWord op p l := by
  rw [(and_fieldMasks w).2, eq_packWord_iff w op]
  constructor
  · rintro ⟨h, rfl, rfl⟩
    exact ⟨(packWord_inj h).1, rfl, rfl⟩
  · rintro ⟨rfl, rfl, rfl⟩
    exact ⟨rfl, rfl, rfl⟩

/-- Every row of R49 fixes the whole OP field. -/
theorem opField_eq_of_accepted {r : Pattern} (hr : r ∈ patterns) {w : Word} (h : w &&& r.mask = r.value) :
    opField w = opField r.value := by
  have op_fixed : ∀ r ∈ patterns, opField r.mask = 0xF := by decide
  have full : ∀ op : Nibble, op &&& 0xF = op := by decide
  rw [← h, opField, opField, BitVec.extractLsb'_and]
  exact ((congrArg (opField w &&& ·) (op_fixed r hr)).trans (full _)).symm

/-- No word is accepted by two rows of R49, because no two rows have the same OP. -/
theorem patterns_disjoint {a b : Pattern} (ha : a ∈ patterns) (hb : b ∈ patterns) {w : Word}
    (hwa : w &&& a.mask = a.value) (hwb : w &&& b.mask = b.value) : a = b := by
  have op_injective : ∀ a ∈ patterns, ∀ b ∈ patterns, opField a.value = opField b.value → a = b := by decide
  exact op_injective a ha b hb ((opField_eq_of_accepted ha hwa).symm.trans (opField_eq_of_accepted hb hwb))

/-- A word no row accepts reads as illegal (R53, R88). -/
theorem decode_of_not_accepted {w : Word} (h : ∀ r ∈ patterns, w &&& r.mask ≠ r.value) :
    decode w = .illegal w := by
  have rejected : ∀ r ∈ patterns, ¬ r.accepts w = true := fun r hr hw => h r hr ((accepts_iff r w).1 hw)
  simp only [patterns, List.forall_mem_cons] at rejected
  obtain ⟨h1, h2, h3, h4, h5, h6, -⟩ := rejected
  simp only [decode, h1, h2, h3, h4, h5, h6, Bool.false_eq_true, if_false]

/-- Settles O4: each row accepts the words of its command alone, which are those that decode to it. -/
theorem decodeFollowsPatternTable : Obligations.DecodeFollowsPatternTable := by
  refine ⟨fun w => ⟨?_, ?_, ?_, ?_, ?_, ?_, fun _ _ ha hb => patterns_disjoint ha hb⟩, by decide, ?_⟩
  · rw [decode_eq_iff rfl, and_fullMask]; rfl
  · exact fun p => (decode_eq_iff rfl w).trans (and_F0FF_eq_iff w 2 p).symm
  · exact fun p => (decode_eq_iff rfl w).trans (and_F0FF_eq_iff w 3 p).symm
  · exact fun p l => (decode_eq_iff rfl w).trans (and_F000_eq_iff w 4 p l).symm
  · rw [decode_eq_iff rfl, and_fullMask]; rfl
  · rw [decode_eq_iff rfl, and_fullMask]; rfl
  · intro w s h
    rw [decode_of_not_accepted h]
    exact ⟨rfl, rfl⟩

end Sys2Proof.Machine
end

section
/-! PROOF. SEND against DEC (R58 to R72): the layout of a frame, its time on the air, the matchers, and the
round trip. -/

namespace Sys2Proof.Machine

/-! ### The layout of a frame -/

/-- Each bit cell has one mark. -/
theorem countP_isMark_cells (bits : List Bool) : (bits.flatMap bitCell).countP TxEvent.isMark = bits.length := by
  induction bits with
  | nil => rfl
  | cons bit rest ih =>
    rw [List.flatMap_cons, List.countP_append, ih, List.length_cons, Nat.add_comm]
    rfl

/-- Each bit cell has one space. -/
theorem countP_isSpace_cells (bits : List Bool) : (bits.flatMap bitCell).countP TxEvent.isSpace = bits.length := by
  induction bits with
  | nil => rfl
  | cons bit rest ih =>
    rw [List.flatMap_cons, List.countP_append, ih, List.length_cons, Nat.add_comm]
    rfl

/-- The last event of a frame is the footer's mark (R58). -/
theorem send_footer (b : Payload) : (send b)[227]? = some (.mark 600) := by
  have before : ([TxEvent.carrier carrierKhz, .mark hdrMarkUs, .space hdrSpaceUs] ++
      (payloadBits b).flatMap bitCell).length = 227 := by
    rw [List.length_append, length_flatMap_blocks bitCell 2 length_bitCell, length_payloadBits]
    rfl
  rw [send, List.getElem?_append_right (Nat.le_of_eq before), before]
  rfl

/-- Settles O25: the positions come from the blocks of the frame, and each cell counts one mark and one
space. -/
theorem frameHasSpecLayout : Obligations.FrameHasSpecLayout := by
  intro b
  refine ⟨length_send b, rfl, rfl, rfl, fun k => ⟨send_cellMark b k, send_cellSpace b k⟩, send_footer b, ?_, ?_⟩
  · rw [send, List.countP_append, List.countP_append, countP_isMark_cells, length_payloadBits]
    rfl
  · rw [send, List.countP_append, List.countP_append, countP_isSpace_cells, length_payloadBits]
    rfl

/-! ### The time on the air -/

/-- A zero's cell lasts 1100 microseconds and a one's 600 more (R59, R117). -/
theorem sum_cells (bits : List Bool) :
    (bits.flatMap (fun bit => [bitMarkUs, bitSpaceUs bit])).sum = 1100 * bits.length + 600 * bits.count true := by
  induction bits with
  | nil => rfl
  | cons bit rest ih =>
    have cell : ([bitMarkUs, bitSpaceUs bit] : List Nat).sum = 1100 + if bit then 600 else 0 := by
      cases bit <;> rfl
    rw [List.flatMap_cons, List.sum_append, ih, cell, List.length_cons, List.count_cons]
    cases bit <;> simp <;> omega

/-- The on-air time of a frame (R117). -/
theorem onAirUs_send (b : Payload) : onAirUs (send b) = 129000 + 600 * oneBits b := by
  have fixed : hdrMarkUs + hdrSpaceUs + bitMarkUs = 5800 := rfl
  simp only [onAirUs, segments_send, List.sum_cons, List.sum_append, List.sum_nil, sum_cells, length_payloadBits,
    oneBits]
  omega

/-- A frame has at most 112 one bits. -/
theorem oneBits_le (b : Payload) : oneBits b ≤ 112 :=
  length_payloadBits b ▸ List.count_le_length

/-- Settles O26, from the formula and the number of bits. -/
theorem frameOnAirTime : Obligations.FrameOnAirTime := by
  refine ⟨fun b => ⟨onAirUs_send b, ?_, ?_⟩, ?_⟩
  · rw [onAirUs_send]
    exact Nat.le_add_right _ _
  · have bound := oneBits_le b
    rw [onAirUs_send]
    omega
  · rw [onAirUs_send]
    decide

/-! ### The matchers -/

theorem toleranceMatch_iff (tol tick d e : Nat) : toleranceMatch tol tick d e = true ↔
    e * (100 - tol) ≤ 100 * d * tick ∧ 100 * d * tick ≤ e * (100 + tol) := by
  simp [toleranceMatch]

theorem holds_iff (w : Window) (d : Nat) : Window.holds w d = true ↔ w.lo ≤ d ∧ d ≤ w.hi := by
  simp [Window.holds]

/-- The default matcher accepts every nominal value (M1 of R66). -/
theorem toleranceMatch_nominal (tol tick e : Nat) (h : tick ∣ e) : toleranceMatch tol tick (e / tick) e = true := by
  have exact_value : 100 * (e / tick) * tick = e * 100 := by
    rw [Nat.mul_assoc, Nat.div_mul_cancel h, Nat.mul_comm]
  rw [toleranceMatch_iff, exact_value]
  exact ⟨Nat.mul_le_mul_left e (Nat.sub_le _ _), Nat.mul_le_mul_left e (Nat.le_add_right _ _)⟩

/-- Up to 37 percent the windows of the two spaces of the default matcher are apart (M2 of R66, R4). -/
theorem toleranceMatch_apart {tol : Nat} (h : tol ≤ 37) (tick d : Nat) :
    ¬ (toleranceMatch tol tick d oneSpaceUs = true ∧ toleranceMatch tol tick d zeroSpaceUs = true) := by
  rw [toleranceMatch_iff, toleranceMatch_iff]
  rintro ⟨⟨one_lo, -⟩, -, zero_hi⟩
  have := one_lo.trans zero_hi
  simp only [oneSpaceUs, zeroSpaceUs] at this
  omega

/-- From 38 percent on the greatest duration the zero space accepts is one the one space accepts too (R66). -/
theorem toleranceMatch_overlap {tol : Nat} (h : 37 < tol) (h100 : tol ≤ 100) :
    toleranceMatch tol 1 (5 * (100 + tol)) oneSpaceUs = true ∧
    toleranceMatch tol 1 (5 * (100 + tol)) zeroSpaceUs = true := by
  simp only [toleranceMatch_iff, oneSpaceUs, zeroSpaceUs]
  omega

/-- A window that passes the check accepts its nominal value (M1 of R66). -/
theorem holds_of_nominalInside {w : Window} {e tick : Nat} (h : nominalInside w e tick = true) (hd : tick ∣ e) :
    Window.holds w (e / tick) = true := by
  simpa [nominalInside, hd] using h

/-- Windows that pass the check share no duration (M2 of R66). -/
theorem not_holds_both {a b : Window} (h : windowsApart a b = true) (d : Nat) :
    ¬ (Window.holds a d = true ∧ Window.holds b d = true) := by
  simp only [windowsApart, Bool.not_eq_true', decide_eq_false_iff_not] at h
  rw [holds_iff, holds_iff]
  omega

/-- Every configuration the machine runs has matchers that meet M1 and M2 (R66, R111(c)). -/
theorem matchersOf_meet_conditions {c : Config} (h : configOk c = true) :
    (matchersOf c).M1 c.rawTickUs ∧ (matchersOf c).M2 := by
  cases hm : c.matcher with
  | tolerance tol =>
    have bound : tol ≤ 37 := by simpa [configOk, hm] using h
    simp only [matchersOf, hm]
    exact ⟨⟨fun e _ hd => toleranceMatch_nominal tol _ e hd, fun e _ hd => toleranceMatch_nominal tol _ e hd⟩,
      toleranceMatch_apart bound _⟩
  | windows w =>
    simp only [configOk, hm, Bool.and_eq_true] at h
    obtain ⟨⟨⟨⟨⟨headerMark, bitMark⟩, headerSpace⟩, oneSpace⟩, zeroSpace⟩, apart⟩ := h
    simp only [matchersOf, hm]
    refine ⟨⟨?_, ?_⟩, not_holds_both apart⟩
    · rintro e (rfl | rfl) hd
      · exact holds_of_nominalInside headerMark hd
      · exact holds_of_nominalInside bitMark hd
    · rintro e (rfl | rfl | rfl) hd
      · exact holds_of_nominalInside headerSpace hd
      · exact holds_of_nominalInside oneSpace hd
      · exact holds_of_nominalInside zeroSpace hd

/-- Settles O33: the default's windows are arithmetic on its formula, and 37 is the last tolerance at which
the spaces' windows do not meet. -/
theorem matchersMeetSpecConditions : Obligations.MatchersMeetSpecConditions := by
  refine ⟨toleranceMatch_iff, ?_, fun _ => matchersOf_meet_conditions, ?_⟩
  · intro c hm ht d
    simp only [matchersOf, hm, ht, toleranceMatch_iff]
    omega
  · intro tol h100
    constructor
    · intro apart
      by_contra h
      exact apart _ (toleranceMatch_overlap (by omega) h100)
    · exact fun h => toleranceMatch_apart h 1

/-! ### The round trip -/

/-- The record of a frame, under matchers that meet M1 and M2: every cell reads as the bit it was sent for
(R59, R68). -/
theorem cellReads_send {m : Matchers} (h1 : m.M1 1) (h2 : m.M2) (b : Payload) (d : Nat) (k : Fin 112) :
    cellReads m (d :: segments (send b)) k.val (b[k.val / 8].getLsbD (7 - k.val % 8)) := by
  obtain ⟨-, -, -, cells⟩ := record_of_send b d
  obtain ⟨mark_at, space_at⟩ := cells k
  have mark_ok : m.mark 600 600 = true := h1.1 600 (.inr rfl) (Nat.one_dvd _)
  have one_ok : m.space 1100 1100 = true := h1.2 1100 (.inr (.inl rfl)) (Nat.one_dvd _)
  have zero_ok : m.space 500 500 = true := h1.2 500 (.inr (.inr rfl)) (Nat.one_dvd _)
  refine ⟨_, _, mark_at, space_at, mark_ok, ?_⟩
  cases b[k.val / 8].getLsbD (7 - k.val % 8) with
  | true => exact ⟨one_ok, Bool.eq_false_iff.2 fun h => h2 1100 ⟨one_ok, h⟩⟩
  | false => exact ⟨Bool.eq_false_iff.2 fun h => h2 500 ⟨h, zero_ok⟩, zero_ok⟩

/-- A frame decodes to its payload or, where the checksum does not hold, to ChecksumMismatch (R72). -/
theorem decodeFrame_send {m : Matchers} (h1 : m.M1 1) (h2 : m.M2) (b : Payload) (d : Nat) :
    decodeFrame m (d :: segments (send b)) = if cksum b = b[13] then .ok b else .error .checksumMismatch := by
  obtain ⟨len, mark_at, space_at, -⟩ := record_of_send b d
  have header : headerReads m (d :: segments (send b)) :=
    ⟨3800, 1400, mark_at, space_at, h1.1 3800 (.inl rfl) (Nat.one_dvd _), h1.2 1400 (.inl rfl) (Nat.one_dvd _)⟩
  exact decodeFrame_bits m _ b (Nat.le_of_eq len.symm) header (cellReads_send h1 h2 b d)

/-- Settles O32: the frame's record reads back bit by bit, a configuration that runs has matchers that meet
the conditions, and a SET seals what it sends. -/
theorem sendThenDecRoundTrip : Obligations.SendThenDecRoundTrip := by
  refine ⟨?_, ?_, fun q c p => sealPayload_get_checksum q.tag _⟩
  · intro m b d h1 h2 hsum
    rw [decodeFrame_send h1 h2, if_pos hsum.symm]
  · intro s b d hok htick hrx hcomplete hsum hcap
    obtain ⟨h1, h2⟩ := matchersOf_meet_conditions hok
    rw [htick] at h1
    have decodes : decodeFrame (matchersOf s.cfg) s.cap = .ok b := by
      rw [hcap, decodeFrame_send h1 h2, if_pos hsum.symm]
    exact ⟨hcap ▸ (record_of_send b d).1, afterDec b s, execDec_ok s b hrx hcomplete decodes, rfl, rfl, rfl⟩

end Sys2Proof.Machine
end

section
/-! PROOF. One equation per command and outcome (R48, R73 to R75, R84, R87, R88), and what a command's result
depends on: the statements about single commands follow from these. -/

namespace Sys2Proof.Machine

/-- A PROP field names a property or is one of the codes 6 to 15 (R50). -/
theorem code_or_unknown (p : Nibble) : (∃ q : Property, p = q.code) ∨ 5 < p.toNat := by
  cases hp : propOperand p with
  | none => exact .inr ((propOperand_eq_none_iff p).1 hp)
  | some q => exact .inl ⟨q, (propOperand_eq_some_iff p q).1 hp⟩

theorem code_toNat_le (q : Property) : q.code.toNat ≤ 5 := by cases q <;> decide

/-- The table of the label counts by property code (R20, R21). -/
theorem labelCounts_eq_some_iff (p : Nibble) (n : Nat) :
    ([2, 6, 16, 5, 6, 6] : List Nat)[p.toNat]? = some n ↔ ∃ q : Property, p = q.code ∧ n = q.count := by
  have table : ∀ p : Nibble, ([2, 6, 16, 5, 6, 6] : List Nat)[p.toNat]? = (propOperand p).map Property.count := by
    decide
  simp only [table, Option.map_eq_some_iff, propOperand_eq_some_iff, eq_comm (b := n)]

theorem exec_lstl_code (q : Property) (s : State) :
    exec (.lstl q.code) s = .next (s.finish .ok (labelCodes q)) := by simp [exec, execLstl, done]

theorem exec_lstl_unknown {p : Nibble} (h : 5 < p.toNat) (s : State) :
    exec (.lstl p) s = .next (s.finish .unknownProperty []) := by
  simp [exec, execLstl, (propOperand_eq_none_iff p).2 h, raise]

theorem exec_get_code (q : Property) (s : State) :
    exec (.get q.code) s = .next (s.finish .ok [lookup q (fieldValue q s.p)]) := by simp [exec, execGet, done]

theorem exec_get_unknown {p : Nibble} (h : 5 < p.toNat) (s : State) :
    exec (.get p) s = .next (s.finish .unknownProperty [noLabel]) := by
  simp [exec, execGet, (propOperand_eq_none_iff p).2 h, raise]

theorem exec_set_known (q : Property) (c : Fin q.count) {s : State} (h : s.txReady = true) :
    exec (.set q.code (BitVec.ofNat 8 c.val)) s = .next (afterSet q c s) := execSet_known q c s h

theorem exec_set_not_ready (q : Property) (c : Fin q.count) {s : State} (h : s.txReady = false) :
    exec (.set q.code (BitVec.ofNat 8 c.val)) s = .refused .txPrimitiveNotReady := by simp [exec, execSet, h]

theorem exec_dec_absent {s : State} (h : s.cfg.rxPresent = false) :
    exec .dec s = .next (s.finish .illegalCommand []) := by simp [exec, execDec, h, raise]

theorem exec_dec_unstable {s : State} (hrx : s.cfg.rxPresent = true) (hc : s.capComplete = false) :
    exec .dec s = .refused .captureUnstable := by simp [exec, execDec, hrx, hc]

/-! ### What a command's result depends on -/

/-- What a command that completes does to the state: it only ends, or it is a successful SET, or it is a
successful DEC (R84, R68). -/
inductive Effect where
  | finish (st : Status) (resp : List Byte)
  | set (q : Property) (c : Fin q.count)
  | dec (a : Payload)

/-- The state an effect leaves. -/
def Effect.apply : Effect → State → State
  | .finish st resp, s => s.finish st resp
  | .set q c, s => afterSet q c s
  | .dec a, s => afterDec a s

/-- Two states that agree on all a command reads: P, the TX primitive's readiness, the parameters and, for DEC
alone, the capture record as its decoder sees it (R35, R68, R84). -/
structure SameReads (i : Instr) (s s' : State) : Prop where
  payload : s'.p = s.p
  tx : s'.txReady = s.txReady
  config : s'.cfg = s.cfg
  complete : i = .dec → s'.capComplete = s.capComplete
  record : i = .dec → decodeFrame (matchersOf s.cfg) s'.cap = decodeFrame (matchersOf s.cfg) s.cap

/-- A command has the same effect in every state that agrees on what it reads. -/
theorem exec_congr {i : Instr} {s t : State} (h : exec i s = .next t) :
    ∃ e : Effect, t = e.apply s ∧ ∀ s', SameReads i s s' → exec i s' = .next (e.apply s') := by
  cases i with
  | lstp => exact ⟨.finish .ok _, (Host.Outcome.next.inj h).symm, fun _ _ => rfl⟩
  | lstl p =>
    rcases code_or_unknown p with ⟨q, rfl⟩ | hp
    · rw [exec_lstl_code] at h
      exact ⟨.finish .ok _, (Host.Outcome.next.inj h).symm, fun s' _ => exec_lstl_code q s'⟩
    · rw [exec_lstl_unknown hp] at h
      exact ⟨.finish .unknownProperty [], (Host.Outcome.next.inj h).symm, fun s' _ => exec_lstl_unknown hp s'⟩
  | get p =>
    rcases code_or_unknown p with ⟨q, rfl⟩ | hp
    · rw [exec_get_code] at h
      exact ⟨.finish .ok _, (Host.Outcome.next.inj h).symm, fun s' hs => hs.payload ▸ exec_get_code q s'⟩
    · rw [exec_get_unknown hp] at h
      exact ⟨.finish .unknownProperty _, (Host.Outcome.next.inj h).symm, fun s' _ => exec_get_unknown hp s'⟩
  | set p l =>
    change execSet p l s = .next t at h
    rcases execSet_cases p l s with ⟨hp, he⟩ | ⟨q, rfl, hl, he⟩ | ⟨q, c, rfl, rfl, ⟨ht, he⟩ | ⟨-, he⟩⟩ <;>
      rw [he] at h
    · exact ⟨.finish .unknownProperty [], (Host.Outcome.next.inj h).symm,
        fun s' _ => execSet_unknownProperty p l s' hp⟩
    · exact ⟨.finish .unknownLabel [], (Host.Outcome.next.inj h).symm, fun s' _ => execSet_unknownLabel q l s' hl⟩
    · exact ⟨.set q c, (Host.Outcome.next.inj h).symm, fun s' hs => execSet_known q c s' (hs.tx.trans ht)⟩
    · cases h
  | dump => exact ⟨.finish .ok _, (Host.Outcome.next.inj h).symm, fun s' hs => hs.payload ▸ rfl⟩
  | dec =>
    cases hrx : s.cfg.rxPresent with
    | false =>
      rw [exec_dec_absent hrx] at h
      exact ⟨.finish .illegalCommand [], (Host.Outcome.next.inj h).symm,
        fun s' hs => exec_dec_absent (hs.config ▸ hrx)⟩
    | true =>
      cases hc : s.capComplete with
      | false => rw [exec_dec_unstable hrx hc] at h; cases h
      | true =>
        change execDec s = .next t at h
        cases hd : decodeFrame (matchersOf s.cfg) s.cap with
        | ok a =>
          rw [execDec_ok s a hrx hc hd] at h
          exact ⟨.dec a, (Host.Outcome.next.inj h).symm, fun s' hs => execDec_ok s' a (hs.config ▸ hrx)
            ((hs.complete rfl).trans hc) (hs.config.symm ▸ (hs.record rfl).trans hd)⟩
        | error e =>
          rw [execDec_error s e hrx hc hd] at h
          exact ⟨.finish e [], (Host.Outcome.next.inj h).symm, fun s' hs => execDec_error s' e (hs.config ▸ hrx)
            ((hs.complete rfl).trans hc) (hs.config.symm ▸ (hs.record rfl).trans hd)⟩
  | illegal w => exact ⟨.finish .illegalCommand [], (Host.Outcome.next.inj h).symm, fun _ _ => rfl⟩

/-- An effect leaves the platform's state and the parameters (R36, R111(d)). -/
theorem Effect.apply_platform (e : Effect) (s : State) :
    (e.apply s).cap = s.cap ∧ (e.apply s).capComplete = s.capComplete ∧ (e.apply s).txReady = s.txReady ∧
    (e.apply s).resetDone = s.resetDone ∧ (e.apply s).cfg = s.cfg ∧ (e.apply s).inputs = s.inputs := by
  cases e <;> exact ⟨rfl, rfl, rfl, rfl, rfl, rfl⟩

theorem Effect.apply_cmdIdx (e : Effect) (s : State) : (e.apply s).cmdIdx = s.cmdIdx + 1 := by cases e <;> rfl

/-- An effect does not look at CMDIDX (R28). -/
theorem Effect.apply_withCmdIdx (e : Effect) (s : State) (n : Nat) :
    e.apply { s with cmdIdx := n } = { e.apply s with cmdIdx := n + 1 } := by cases e <;> rfl

/-- An effect does not look at the capture space. -/
theorem Effect.apply_withCapture (e : Effect) (s : State) (cap : List Nat) (complete : Bool) :
    e.apply { s with cap := cap, capComplete := complete } =
      { e.apply s with cap := cap, capComplete := complete } := by cases e <;> rfl

theorem Status.code_toNat_le (st : Status) : st.code.toNat ≤ 7 := by cases st <;> decide

/-- A command ends with one of the eight codes (R94). -/
theorem exec_status_le {i : Instr} {s t : State} (h : exec i s = .next t) : t.status.toNat ≤ 7 := by
  obtain ⟨e, rfl, -⟩ := exec_congr h
  cases e with
  | finish st resp => exact st.code_toNat_le
  | set q c => exact Status.code_toNat_le .ok
  | dec a => exact Status.code_toNat_le .ok

/-! ### Statements on every command -/

/-- Settles O37: every effect advances the index, and no command reads it. -/
theorem commandIndexCountsCommands : Obligations.CommandIndexCountsCommands := by
  refine ⟨resetWith_cmdIdx, ?_⟩
  intro i s t h
  obtain ⟨e, rfl, same⟩ := exec_congr h
  refine ⟨e.apply_cmdIdx s, fun n => ?_⟩
  rw [same { s with cmdIdx := n } ⟨rfl, rfl, rfl, fun _ => rfl, fun _ => rfl⟩, e.apply_withCmdIdx]

/-- Settles O39: no effect writes the platform's state. -/
theorem commandsLeavePlatformState : Obligations.CommandsLeavePlatformState := by
  intro i s t h
  obtain ⟨e, rfl, -⟩ := exec_congr h
  exact e.apply_platform s

/-- Settles O40: a command other than DEC does not read the record, and no effect looks at it. -/
theorem onlyDecReadsCapture : Obligations.OnlyDecReadsCapture := by
  intro i s t cap complete hi h
  obtain ⟨e, rfl, same⟩ := exec_congr h
  rw [same { s with cap := cap, capComplete := complete }
    ⟨rfl, rfl, rfl, fun hdec => absurd hdec hi, fun hdec => absurd hdec hi⟩, e.apply_withCapture]

/-- Settles O38, command by command, from the equation of each outcome. -/
theorem responseFollowsStatus : Obligations.ResponseFollowsStatus := by
  intro i s t h
  refine ⟨exec_status_le h, ?_⟩
  cases i with
  | lstp => cases h; exact ⟨rfl, rfl⟩
  | lstl p =>
    rcases code_or_unknown p with ⟨q, rfl⟩ | hp
    · rw [exec_lstl_code] at h; cases h; exact .inl ⟨q, rfl, rfl, rfl⟩
    · rw [exec_lstl_unknown hp] at h; cases h; exact .inr ⟨hp, rfl, rfl⟩
  | get p =>
    rcases code_or_unknown p with ⟨q, rfl⟩ | hp
    · rw [exec_get_code] at h; cases h; exact .inl ⟨q, rfl, rfl, rfl⟩
    · rw [exec_get_unknown hp] at h; cases h; exact .inr ⟨hp, rfl, rfl⟩
  | set p l =>
    change execSet p l s = .next t at h
    rcases execSet_cases p l s with ⟨hp, he⟩ | ⟨q, rfl, -, he⟩ | ⟨q, c, -, -, ⟨-, he⟩ | ⟨-, he⟩⟩ <;>
      rw [he] at h <;> cases h
    · exact ⟨.inr (.inl ⟨hp, rfl⟩), rfl⟩
    · exact ⟨.inr (.inr ⟨code_toNat_le q, rfl⟩), rfl⟩
    · exact ⟨.inl rfl, rfl⟩
  | dump => cases h; exact ⟨rfl, rfl⟩
  | dec =>
    change execDec s = .next t at h
    rcases execDec_cases s with ⟨hrx, he⟩ | ⟨-, -, he⟩ | ⟨-, -, ⟨a, -, -, he⟩ | ⟨e, he', he⟩⟩ <;>
      rw [he] at h <;> cases h
    · exact .inr ⟨.inr (.inr (.inr (.inr ⟨hrx, rfl⟩))), rfl⟩
    · exact .inl ⟨rfl, a, rfl, rfl, by simp [afterDec]⟩
    · refine .inr ⟨?_, rfl⟩
      rcases he' with rfl | rfl | rfl | rfl
      · exact .inl rfl
      · exact .inr (.inl rfl)
      · exact .inr (.inr (.inl rfl))
      · exact .inr (.inr (.inr (.inl rfl)))
  | illegal w => cases h; exact ⟨rfl, rfl⟩

/-- A command completes, or it is refused where a duty of the host is broken (R8, R97, R111(b), R115). -/
theorem exec_completes_or_refused (i : Instr) (s : State) :
    (∃ t, exec i s = .next t) ∨
    (exec i s = .refused .captureUnstable ∧ i = .dec ∧ s.cfg.rxPresent = true ∧ s.capComplete = false) ∨
    (exec i s = .refused .txPrimitiveNotReady ∧ s.txReady = false ∧
      ∃ (q : Property) (c : Fin q.count), i = .set q.code (BitVec.ofNat 8 c.val)) := by
  cases i with
  | lstp => exact .inl ⟨_, rfl⟩
  | lstl p =>
    rcases code_or_unknown p with ⟨q, rfl⟩ | hp
    · exact .inl ⟨_, exec_lstl_code q s⟩
    · exact .inl ⟨_, exec_lstl_unknown hp s⟩
  | get p =>
    rcases code_or_unknown p with ⟨q, rfl⟩ | hp
    · exact .inl ⟨_, exec_get_code q s⟩
    · exact .inl ⟨_, exec_get_unknown hp s⟩
  | set p l =>
    rcases execSet_cases p l s with ⟨-, he⟩ | ⟨q, -, -, he⟩ | ⟨q, c, rfl, rfl, ⟨-, he⟩ | ⟨ht, he⟩⟩
    · exact .inl ⟨_, he⟩
    · exact .inl ⟨_, he⟩
    · exact .inl ⟨_, he⟩
    · exact .inr (.inr ⟨he, ht, q, c, rfl⟩)
  | dump => exact .inl ⟨_, rfl⟩
  | dec =>
    rcases execDec_cases s with ⟨-, he⟩ | ⟨hrx, hc, he⟩ | ⟨-, -, ⟨a, -, -, he⟩ | ⟨e, -, he⟩⟩
    · exact .inl ⟨_, he⟩
    · exact .inr (.inl ⟨he, rfl, hrx, hc⟩)
    · exact .inl ⟨_, he⟩
    · exact .inl ⟨_, he⟩
  | illegal w => exact .inl ⟨_, rfl⟩

/-- Settles O41: the three ways a command can answer, none of them a fault. -/
theorem commandsRefusedOnlyForBrokenDuties : Obligations.CommandsRefusedOnlyForBrokenDuties := by
  intro i s
  rcases exec_completes_or_refused i s with ⟨t, he⟩ | ⟨he, hdec⟩ | ⟨he, hset⟩ <;> rw [he]
  · exact ⟨nofun, nofun⟩
  · exact ⟨nofun, fun r hr => .inl ⟨(Host.Outcome.refused.inj hr).symm, hdec⟩⟩
  · exact ⟨nofun, fun r hr => .inr ⟨(Host.Outcome.refused.inj hr).symm, hset⟩⟩

/-- Settles O42, by the equations of the two refusals. -/
theorem brokenDutiesAreRefused : Obligations.BrokenDutiesAreRefused :=
  ⟨fun _ hrx hc => exec_dec_unstable hrx hc, fun q c _ h => exec_set_not_ready q c h⟩

end Sys2Proof.Machine
end

section
/-! PROOF. DEC and the decoded-frame registers (R26, R27, R33, R67 to R71, R91), and the commands without
effect (R88). -/

namespace Sys2Proof.Machine

/-- Settles O22, by the equations of the illegal word and of a DEC without receive path. -/
theorem illegalWordsHaveNoEffect : Obligations.IllegalWordsHaveNoEffect :=
  ⟨fun _ _ => rfl, fun _ h => exec_dec_absent h⟩

/-! ### The two ends of a DEC -/

section
variable {s : State} (hrx : s.cfg.rxPresent = true) (hc : s.capComplete = true)
include hrx hc

theorem exec_dec_ok {a : Payload} (h : decodeFrame (matchersOf s.cfg) s.cap = .ok a) :
    exec .dec s = .next (afterDec a s) := execDec_ok s a hrx hc h

theorem exec_dec_error {e : Status} (h : decodeFrame (matchersOf s.cfg) s.cap = .error e) :
    exec .dec s = .next (s.finish e []) := execDec_error s e hrx hc h

end

/-- The first check: a record shorter than a frame (R68 step 1). -/
theorem decodeFrame_short (m : Matchers) {cap : List Nat} (h : cap.length < 228) :
    decodeFrame m cap = .error .insufficientData := if_pos h

/-- A record of 228 entries or more passes the first check (R61). -/
theorem not_lt_minRawLen {cap : List Nat} (h : 228 ≤ cap.length) : ¬ cap.length < minRawLen := Nat.not_lt.2 h

/-- The second check: the header (R68 step 2). -/
theorem decodeFrame_noHeader {m : Matchers} {cap : List Nat} (hl : 228 ≤ cap.length) (hh : ¬ headerReads m cap) :
    decodeFrame m cap = .error .headerMismatch := by
  have mismatch : headerMatches m cap = false := by rwa [← headerMatches_iff, Bool.not_eq_true] at hh
  rw [decodeFrame, if_neg (not_lt_minRawLen hl), if_pos mismatch]

/-- The third check: the lowest failing bit cell (R68 step 3, R70(f)). -/
theorem decodeFrame_badCell {m : Matchers} {cap : List Nat} (hl : 228 ≤ cap.length) (hh : headerReads m cap)
    (k : Fin 112) (hbefore : ∀ j : Fin 112, j < k → ∃ bit, cellReads m cap j.val bit)
    (hbad : cellFails m cap k.val) : decodeFrame m cap = .error .bitCellMismatch := by
  have cells : readCells m cap nBits 0 = .error .bitCellMismatch := by
    apply readCells_fails m cap nBits 0 k.val k.isLt
    · intro j hj
      rw [Nat.zero_add]
      exact hbefore ⟨j, hj.trans k.isLt⟩ hj
    · rwa [Nat.zero_add]
  have header := (headerMatches_iff m cap).2 hh
  simp only [decodeFrame, not_lt_minRawLen hl, header, cells, Bool.true_eq_false, if_false]

/-- A successful DEC, with RX_TAG_VALID as membership in the twelve tags (R91). -/
theorem afterDec_eq_update (a : Payload) (s : State) : afterDec a s = { s with
    status := 0x00
    resp := a.toList ++ [flagByte (tagKnown a[12])]
    rxp := some a
    rxValid := true
    rxTag := some a[12]
    rxTagValid := tagKnown a[12]
    cmdIdx := s.cmdIdx + 1 } := rfl

/-- Settles O28: the record decodes to the payload, and the update is a successful DEC's. -/
theorem decSucceedsOnMatchingCapture : Obligations.DecSucceedsOnMatchingCapture := by
  intro s a hrx hc hl hh hcells hsum
  have decodes : decodeFrame (matchersOf s.cfg) s.cap = .ok a := by
    rw [decodeFrame_bits _ _ a hl hh hcells, if_pos hsum.symm]
  rw [exec_dec_ok hrx hc decodes, afterDec_eq_update, tagKnown_eq]
  simp only [flagByte, decide_eq_true_eq]

/-- Settles O29: each check of the decoder in its order gives its code. -/
theorem decReportsFirstFailingCheck : Obligations.DecReportsFirstFailingCheck := by
  intro s hrx hc
  refine ⟨fun hl => ?_, fun hl hh => ?_, fun k hl hh hbefore hbad => ?_, fun a hl hh hcells hsum => ?_⟩
  · exact exec_dec_error hrx hc (decodeFrame_short _ hl)
  · exact exec_dec_error hrx hc (decodeFrame_noHeader hl hh)
  · exact exec_dec_error hrx hc (decodeFrame_badCell hl hh k hbefore hbad)
  · have unsealed : decodeFrame (matchersOf s.cfg) s.cap = .error .checksumMismatch := by
      rw [decodeFrame_bits _ _ a hl hh hcells, if_neg (Ne.symm hsum)]
    exact exec_dec_error hrx hc unsealed

/-- Settles O30: a DEC that does not end with OK has only ended, with an empty response. -/
theorem failedDecKeepsReceiveState : Obligations.FailedDecKeepsReceiveState := by
  intro s t h herr
  change execDec s = .next t at h
  rcases execDec_cases s with ⟨-, he⟩ | ⟨-, -, he⟩ | ⟨-, -, ⟨a, -, -, he⟩ | ⟨e, -, he⟩⟩ <;> rw [he] at h <;> cases h
  · rfl
  · exact absurd rfl herr
  · rfl

/-! ### What DEC reads of the record -/

/-- The decoder looks at the entries 1 to 226 and at the length (R70(b), (c)). -/
theorem decodeFrame_eq_of_agree (m : Matchers) {x y : List Nat} (hx : 228 ≤ x.length) (hy : 228 ≤ y.length)
    (h : ∀ j : Nat, 1 ≤ j → j ≤ 226 → x[j]? = y[j]?) : decodeFrame m x = decodeFrame m y := by
  have header : headerMatches m x = headerMatches m y := by
    simp only [headerMatches, h 1 (by decide) (by decide), h 2 (by decide) (by decide)]
  have cells : readCells m x nBits 0 = readCells m y nBits 0 :=
    readCells_congr m x y nBits 0 fun j hlo hhi => h j (by omega) (by simp only [nBits] at hhi; omega)
  simp only [decodeFrame, not_lt_minRawLen hx, not_lt_minRawLen hy, header, cells]

/-- A DEC is refused for an unfinished record alone (R115). -/
theorem exec_dec_refused_iff (s : State) (r : Refusal) : exec .dec s = .refused r ↔
    s.cfg.rxPresent = true ∧ s.capComplete = false ∧ r = .captureUnstable := by
  constructor
  · intro h
    change execDec s = .refused r at h
    rcases execDec_cases s with ⟨-, he⟩ | ⟨hrx, hc, he⟩ | ⟨-, -, ⟨a, -, -, he⟩ | ⟨e, -, he⟩⟩ <;> rw [he] at h <;>
      cases h
    exact ⟨hrx, hc, rfl⟩
  · rintro ⟨hrx, hc, rfl⟩
    exact exec_dec_unstable hrx hc

/-- An effect does not look at the record. -/
theorem Effect.apply_withRecord (e : Effect) (s : State) (y : List Nat) :
    e.apply { s with cap := y } = { e.apply s with cap := y } := by cases e <;> rfl

/-- Settles O31: two such records decode alike, and DEC reads the record through its decoder alone. -/
theorem decIgnoresUnreadEntries : Obligations.DecIgnoresUnreadEntries := by
  refine ⟨fun m x y hx hy h => decodeFrame_eq_of_agree m hx hy h, fun s y hx hy h => ⟨fun t ht => ?_, fun r hr => ?_⟩⟩
  · obtain ⟨e, rfl, same⟩ := exec_congr ht
    have alike := (decodeFrame_eq_of_agree (matchersOf s.cfg) hx hy h).symm
    rw [same { s with cap := y } ⟨rfl, rfl, rfl, fun _ => rfl, fun _ => alike⟩, e.apply_withRecord]
  · exact (exec_dec_refused_iff _ r).2 ((exec_dec_refused_iff s r).1 hr)

/-! ### The decoded-frame registers -/

/-- What holds of a command that ends with OK holds, or STATUS says that it did not end with OK. -/
theorem or_finish_status_ne_zero {P : Prop} (s : State) {st : Status} (resp : List Byte) (h : st = .ok → P) :
    P ∨ (s.finish st resp).status ≠ 0x00 := by
  rw [finish_status, ne_eq, Status.code_eq_zero_iff]
  exact or_iff_not_imp_right.2 fun hst => h (not_not.1 hst)

/-- Settles O34: of the three ways a command can complete only a successful DEC writes them. -/
theorem receiveRegistersWrittenOnlyBySuccessfulDec : Obligations.ReceiveRegistersWrittenOnlyBySuccessfulDec := by
  intro i s t h
  rcases exec_cases h with ⟨st, resp, rfl, hok⟩ | ⟨q, c, rfl, -, rfl⟩ | ⟨a, rfl, -, rfl⟩
  · exact ⟨.inr ⟨or_finish_status_ne_zero s resp fun hst => (hok hst).2, rfl, rfl, rfl, rfl⟩, id⟩
  · exact ⟨.inr ⟨.inl nofun, rfl, rfl, rfl, rfl⟩, id⟩
  · exact ⟨.inl ⟨rfl, rfl, a, rfl, rfl, rfl, rfl, rfl⟩, fun _ => rfl⟩

/-- While RX_VALID = 0 a read of RXP faults (R33, X5). -/
theorem readRxp_of_not_valid {s : State} (h : s.rxValid = false) (i : Fin 14) :
    readRxp s i = .error .rxHoldsNoValue := by simp [readRxp, h]

/-- While RX_VALID = 0 a read of RX_TAG faults (R33, X5). -/
theorem readRxTag_of_not_valid {s : State} (h : s.rxValid = false) : readRxTag s = .error .rxHoldsNoValue := by
  simp [readRxTag, h]

/-- A DEC that ends with OK is a successful one (R68). -/
theorem exec_dec_ok_eq_afterDec {s t : State} (h : exec .dec s = .next t) (hok : t.status = 0x00) :
    ∃ a, t = afterDec a s := by
  rcases exec_cases h with ⟨st, resp, rfl, hnot⟩ | ⟨q, c, hset, -, -⟩ | ⟨a, -, -, rfl⟩
  · rw [finish_status, Status.code_eq_zero_iff] at hok
    exact absurd rfl (hnot hok).2
  · cases hset
  · exact ⟨a, rfl⟩

/-- Settles O35: the reads fault without the valid flag, and a successful DEC sets it with both registers. -/
theorem receiveReadsFaultUntilFirstDec : Obligations.ReceiveReadsFaultUntilFirstDec := by
  refine ⟨fun s i h => ⟨readRxp_of_not_valid h i, readRxTag_of_not_valid h⟩, fun c => ⟨rfl, rfl, rfl⟩, ?_⟩
  intro s t h hok
  obtain ⟨a, rfl⟩ := exec_dec_ok_eq_afterDec h hok
  exact ⟨a, rfl, fun _ => rfl, rfl⟩

/-- The diagnostic record after INTERPRET depends on the tag alone (R92). -/
theorem diagnosticRecord_interpret (t : Byte) (s : State) :
    diagnosticRecord (interpret t s) = if tagKnown t then tagName t else none := rfl

/-- Settles O36: membership in the tag ROM decides the flag and the record. -/
theorem interpretClassifiesTags : Obligations.InterpretClassifiesTags := by
  refine ⟨fun t s => ?_, fun t s ht => ?_, fun s => ?_, fun q => ?_⟩
  · rw [← tagKnown_eq]
    rfl
  · rw [diagnosticRecord_interpret, tagKnown_eq, if_neg (by simpa using ht)]
  · simp only [diagnosticRecord_interpret]
    decide
  · cases q <;> decide

end Sys2Proof.Machine
end

section
/-! PROOF. The property registry and SET (R73 to R80, R84): LSTP, LSTL, GET and LOOKUP, and what a SET writes. -/

namespace Sys2Proof.Machine

/-- Settles O5: LSTP has one outcome. -/
theorem lstpListsSixCodes : Obligations.LstpListsSixCodes := fun _ => rfl

/-- Settles O6, by the equations of LSTL for a property and for the codes 6 to 15. -/
theorem lstlListsLabelCodes : Obligations.LstlListsLabelCodes := by
  refine fun p s => ⟨fun n hn => ?_, fun hp => exec_lstl_unknown hp s⟩
  obtain ⟨q, rfl, rfl⟩ := (labelCounts_eq_some_iff p n).1 hn
  exact exec_lstl_code q s

/-- Settles O7: GET looks the field's value up, and LOOKUP of a label's value is its code. -/
theorem getReadsCurrentLabel : Obligations.GetReadsCurrentLabel := by
  intro q c s h
  have field : fieldValue q s.p = q.value c := h
  rw [exec_get_code, field, lookup_value]
  rfl

/-- Settles O8: LOOKUP of a value no label has is 0xFF. -/
theorem getAnswersEmptyLabel : Obligations.GetAnswersEmptyLabel := by
  refine fun p s => ⟨?_, fun hp => exec_get_unknown hp s⟩
  rintro q rfl h
  have unknown : lookup q (fieldValue q s.p) = noLabel := lookup_eq_noLabel q _ h
  rw [exec_get_code, unknown]
  rfl

/-- Settles O17, by the equations of the two failing SETs. -/
theorem unknownOperandsEndSet : Obligations.UnknownOperandsEndSet := by
  refine fun p l s => ⟨fun hp => execSet_unknownProperty p l s hp, fun n hn hl => ?_⟩
  obtain ⟨q, rfl, rfl⟩ := (labelCounts_eq_some_iff p n).1 hn
  exact execSet_unknownLabel q l s hl

/-- A list of fourteen bytes is its bytes in order. -/
theorem toList_payload (p : Payload) : p.toList =
    [p[0], p[1], p[2], p[3], p[4], p[5], p[6], p[7], p[8], p[9], p[10], p[11], p[12], p[13]] := by
  apply List.ext_getElem (by simp)
  intro n h _
  have hn : n < 14 := by simpa using h
  rw [Vector.getElem_toList]
  interval_cases n <;> rfl

/-- Settles O21: DUMP answers the payload as a list. -/
theorem dumpReadsWholePayload : Obligations.DumpReadsWholePayload := by
  intro s
  rw [← toList_payload]
  rfl

/-! ### LOOKUP -/

/-- LOOKUP answers 0xFF exactly on the values no label has (R77). -/
theorem lookup_eq_noLabel_iff (q : Property) (v : Byte) : lookup q v = 0xFF ↔ ∀ c : Fin q.count, q.value c ≠ v := by
  constructor
  · rintro h c rfl
    rw [lookup_value] at h
    exact noLabel_ne q c h
  · exact fun h => lookup_eq_noLabel q v fun c => (h c).symm

/-- LOOKUP is 0xFF or the unique code of its value (R77). -/
theorem lookup_unique (q : Property) (v : Byte) :
    lookup q v = 0xFF ∨ ∃! c : Fin q.count, q.value c = v ∧ lookup q v = BitVec.ofNat 8 c.val := by
  rw [lookup_eq_noLabel_iff]
  by_cases h : ∃ c : Fin q.count, q.value c = v
  · obtain ⟨c, rfl⟩ := h
    exact .inr ⟨c, ⟨rfl, lookup_value q c⟩, fun d hd => value_injective q d c hd.1⟩
  · exact .inl (not_exists.1 h)

/-- Settles O9: LOOKUP inverts the value tables in general, and the unrecognised values of each mask are found by
going through its values. -/
theorem lookupInvertsValues : Obligations.LookupInvertsValues := by
  refine ⟨lookup_value, lookup_unique, ?_, ?_, ?_, ?_, ?_, ?_⟩ <;> decide

/-! ### SET -/

/-- A SET leaves its label's value in its field, read byte by byte (R84). -/
theorem setPayload_get_field (q : Property) (c : Fin q.count) (p : Payload) :
    (setPayload q c p)[q.byteIndex] = (p[q.byteIndex] &&& ~~~q.mask) ||| q.value c := by
  rw [setPayload_get q c p _ (ne_byteIndex_of_gt q (by decide)).symm (ne_byteIndex_of_gt q (by decide)).symm,
    if_pos rfl]

/-- A SET leaves every byte but its field's, the tag and the checksum (R84). -/
theorem setPayload_get_other (q : Property) (c : Fin q.count) (p : Payload) {j : Fin 14} (hj : j ≠ q.byteIndex)
    (h12 : j ≠ 12) (h13 : j ≠ 13) : (setPayload q c p)[j] = p[j] := by
  rw [setPayload_get q c p j h12 h13, if_neg hj.symm]

/-- Settles O15: the payload is the one of R84, byte by byte. -/
theorem setWritesFieldTagChecksumAndSends : Obligations.SetWritesFieldTagChecksumAndSends := by
  intro q c s hready
  exact ⟨setPayload q c s.p, exec_set_known q c hready, setPayload_get_field q c s.p,
    (fieldValue_setPayload q q c s.p).1, sealPayload_get_tag q.tag _, sealPayload_get_checksum q.tag _,
    fun j hj h12 h13 => setPayload_get_other q c s.p hj h12 h13⟩

/-- A SET of one property that completes leaves every other property's field (R78, R86). -/
theorem fieldValue_after_set {q r : Property} (hne : q ≠ r) {l : Byte} {s t : State}
    (h : exec (.set q.code l) s = .next t) : fieldValue r t.p = fieldValue r s.p := by
  rcases exec_cases h with ⟨st, resp, rfl, -⟩ | ⟨q', c, hset, -, rfl⟩ | ⟨a, hdec, -, -⟩
  · rfl
  · obtain ⟨hcode, -⟩ := Instr.set.inj hset
    obtain rfl := code_injective q q' hcode
    exact (fieldValue_setPayload q r c s.p).2 hne
  · cases hdec

/-- Settles O11: GET answers by the field's value alone, which a SET of another property leaves. -/
theorem setLeavesOtherFields : Obligations.SetLeavesOtherFields := by
  refine fun q r hne => ⟨fun c p => fieldValue_applyLabel_other q r c p hne, ?_⟩
  intro l s t a b hset hbefore hafter
  rw [exec_get_code] at hbefore hafter
  cases hbefore
  cases hafter
  rw [fieldValue_after_set hne hset]
  exact ⟨rfl, rfl⟩

/-- The closed form of the temperature labels and their values, by label code (R21, R80). -/
theorem temperature_label (c : Fin (Property.count .temperature)) :
    labelOfName .temperature (toString (16 + c.val)) = BitVec.ofNat 8 c.val ∧
    Property.value .temperature c = BitVec.ofNat 8 (15 - c.val) := by
  revert c; decide

/-- Settles O18: a SET leaves the label's value in the field. -/
theorem temperatureFieldDescends : Obligations.TemperatureFieldDescends := by
  intro T s hlo hhi hready
  obtain ⟨c, rfl⟩ := Nat.exists_eq_add_of_le hlo
  have known : c < Property.count .temperature := by
    have : Property.count .temperature = 16 := rfl
    omega
  obtain ⟨name, value⟩ := temperature_label ⟨c, known⟩
  have code : 16 + c - 16 = c := by omega
  have descends : 31 - (16 + c) = 15 - c := by omega
  rw [code, descends]
  exact ⟨name, _, exec_set_known .temperature ⟨c, known⟩ hready,
    (fieldValue_setPayload .temperature .temperature ⟨c, known⟩ s.p).1.trans value⟩

/-- Settles O19: a successful SET seals the payload with its property's tag, and no other outcome writes it. -/
theorem tagAndChecksumWrittenOnlyBySet : Obligations.TagAndChecksumWrittenOnlyBySet := by
  refine ⟨fun c => ⟨resetPayload_get_tag c, resetPayload_get_checksum c⟩, ?_⟩
  intro i s t h
  rcases exec_cases h with ⟨st, resp, rfl, hok⟩ | ⟨q, c, rfl, -, rfl⟩ | ⟨a, rfl, -, rfl⟩
  · exact .inr ⟨or_finish_status_ne_zero s resp fun hst => (hok hst).1, rfl⟩
  · exact .inl ⟨q, _, rfl, rfl, sealPayload_get_tag q.tag _, sealPayload_get_checksum q.tag _⟩
  · exact .inr ⟨.inl nofun, rfl⟩

end Sys2Proof.Machine
end

section
/-! PROOF. What the checksum detects (R83). -/

namespace Sys2Proof.Machine

/-- Changing one of the thirteen bytes moves CKSUM by that byte's change (R83). -/
theorem cksum_set (b : Payload) (i : Fin 14) (v : Byte) (hi : i.val ≤ 12) :
    cksum (b.set i v) = cksum b + (v - b[i]) := by
  have balance : cksum (b.set i v) + b[i] = cksum b + v :=
    calc cksum (b.set i v) + b[i]
        = BitVec.ofNat 8 (byteSum (b.set i v) + b[i].toNat) := by rw [BitVec.ofNat_add, BitVec.ofNat_toNat]; rfl
      _ = BitVec.ofNat 8 (byteSum b + v.toNat) := by rw [byteSum_set b i v hi]
      _ = cksum b + v := by rw [BitVec.ofNat_add, BitVec.ofNat_toNat]; rfl
  rw [eq_sub_of_add_eq balance, add_sub_assoc]

/-- Two changes that cancel are not detected (R83). -/
theorem cksum_set_compensated (b : Payload) {i j : Fin 14} (d : Byte) (hi : i.val ≤ 12) (hj : j.val ≤ 12)
    (hne : i ≠ j) : cksum ((b.set i (b[i] + d)).set j (b[j] - d)) = cksum b := by
  have untouched : (b.set i (b[i] + d))[j] = b[j] :=
    Vector.getElem_set_ne _ _ fun h => hne (Fin.ext h)
  rw [cksum_set _ j _ hj, cksum_set b i _ hi, untouched]
  abel

/-- A payload whose first thirteen bytes are one byte has the checksum of fourteen copies of it (R81). -/
theorem cksum_of_constant {b : Payload} {x : Byte} (h : ∀ i : Fin 14, i.val ≤ 12 → b[i] = x) :
    cksum b = cksum (Vector.replicate 14 x) := by
  apply cksum_congr
  intro i hi
  have hlt : i.val ≤ 12 := by omega
  rw [h i hlt, Fin.getElem_fin, Vector.getElem_replicate]

/-- Changing B[13] alone breaks a checksum that held (R83). -/
theorem set_checksumByte_ne_cksum {b : Payload} {v : Byte} (hsum : b[13] = cksum b) (hv : v ≠ b[13]) :
    (b.set 13 v)[13] ≠ cksum (b.set 13 v) := by
  rw [Vector.getElem_set_self, cksum_set_checksumByte, ← hsum]
  exact hv

/-- Settles O14: the change of one byte, the frame of a payload that is not sealed, the cancelling changes, and
the two constant payloads. -/
theorem checksumDetectsSingleByteChanges : Obligations.ChecksumDetectsSingleByteChanges := by
  refine ⟨fun b i v hi => ⟨cksum_set b i v hi, cksum_set_ne b i v hi⟩, ?_,
    fun b i j d hi hj hne => cksum_set_compensated b d hi hj hne,
    fun b h => (cksum_of_constant h).trans (by decide), fun b h => (cksum_of_constant h).trans (by decide)⟩
  intro b v hsum hv
  have broken := set_checksumByte_ne_cksum hsum hv
  exact ⟨broken, fun m d h1 h2 => (decodeFrame_send h1 h2 _ d).trans (if_neg broken.symm)⟩

end Sys2Proof.Machine
end

section
/-! PROOF. Reset, power and the step (R41, R42, R89, R104 to R112): one equation per input, and what a step
leaves. -/

namespace Sys2Proof.Machine

/-! ### The state after reset -/

/-- Settles O43, from the payload the reset sequence leaves. -/
theorem resetPayloadIsSpecs : Obligations.ResetPayloadIsSpecs := by
  have payload : ∀ c : Config, (State.resetWith c).p =
      #v[0x23, 0xCB, 0x26, 0x01, 0x00, 0x20, defaultModeValue c.defaultMode, 0x07, 0x38, 0, 0, 0x0F, c.resetTag,
        BitVec.ofNat 8 (0x183 + (defaultModeValue c.defaultMode).toNat + c.resetTag.toNat)] := resetPayload_eq
  refine ⟨fun c => ?_, payload Config.standard, payload { Config.standard with defaultMode := .auto }⟩
  rw [payload c]
  cases c.defaultMode <;> rfl

/-- Settles O44: the reset sequence clears each register, and the reads fault without the valid flag. -/
theorem resetClearsInterfaceState : Obligations.ResetClearsInterfaceState :=
  fun _ => ⟨rfl, rfl, rfl, rfl, rfl, rfl, readRxp_of_not_valid rfl, readRxTag_of_not_valid rfl⟩

/-! ### One step, input by input -/

/-- Under a configuration outside the spec there is no step (R112). -/
theorem step_refused_config {s : State} (h : configOk s.cfg = false) : step s = .refused .configurationOutsideSpec := by
  simp [step, runNext, h]

section
variable {s : State} {rest : List Input} (hok : configOk s.cfg = true)
include hok

/-- With no input the block is quiescent (R104). -/
theorem step_idle (h : s.inputs = []) : step s = .next s := by simp [step, runNext, hok, h]

/-- A step takes the next input (R41). -/
theorem step_input {i : Input} (h : s.inputs = i :: rest) : step s = accept i (s.withInputs rest) := by
  simp [step, runNext, hok, h]

theorem step_command {w : Word} (hr : s.resetDone = true) (h : s.inputs = .command w :: rest) :
    step s = exec (decode w) (s.withInputs rest) := by
  rw [step_input hok h, accept, runCommand, withInputs_resetDone, if_pos hr]

theorem step_command_before_reset {w : Word} (hr : s.resetDone = false) (h : s.inputs = .command w :: rest) :
    step s = .refused .commandBeforeReset := by
  rw [step_input hok h, accept, runCommand, withInputs_resetDone, if_neg (Bool.eq_false_iff.1 hr)]

theorem step_capture {record : List Nat} {complete : Bool} (hf : captureFits s.cfg record = true)
    (h : s.inputs = .capture record complete :: rest) :
    step s = .next ((s.withInputs rest).withCapture record complete) := by
  rw [step_input hok h, accept, withInputs_cfg, if_pos hf]

theorem step_capture_refused {record : List Nat} {complete : Bool} (hf : ¬ captureFits s.cfg record = true)
    (h : s.inputs = .capture record complete :: rest) : step s = .refused .captureDoesNotFit := by
  rw [step_input hok h, accept, withInputs_cfg, if_neg hf]

end

theorem captureFits_iff (c : Config) (record : List Nat) :
    captureFits c record = true ↔ record.length ≤ c.capMax ∧ ∀ d ∈ record, d < 2 ^ c.rawWidth := by
  simp [captureFits]

/-- Settles O46, by the step of a command. -/
theorem commandBeforeResetIsRefused : Obligations.CommandBeforeResetIsRefused :=
  fun _ _ _ hok hr h => step_command_before_reset hok hr h

/-- Settles O48, by the step of a command. -/
theorem stepRunsDecodedCommand : Obligations.StepRunsDecodedCommand :=
  fun _ w _ hok hr h => ⟨step_command hok hr h, decode_wf w⟩

/-- Settles O49, input by input. -/
theorem platformInputsChangeOnlyTheirState : Obligations.PlatformInputsChangeOnlyTheirState := by
  refine fun s rest hok => ⟨step_idle hok, ?_, ?_, fun ready h => step_input hok h, fun h => step_input hok h⟩
  · exact fun record complete h hlen hwidth => step_capture hok ((captureFits_iff _ _).2 ⟨hlen, hwidth⟩) h
  · intro record complete h hbad
    refine step_capture_refused hok (fun hf => ?_) h
    obtain ⟨hlen, hwidth⟩ := (captureFits_iff _ _).1 hf
    rcases hbad with hlong | ⟨d, hd, hwide⟩
    · exact absurd hlen (Nat.not_le.2 hlong)
    · exact absurd (hwidth d hd) (Nat.not_lt.2 hwide)

/-- Settles O47: a configuration that passes the check has a tolerance of at most 37 or matchers that meet M1 and
M2. -/
theorem configurationOutsideSpecIsRefused : Obligations.ConfigurationOutsideSpecIsRefused := by
  refine ⟨fun s tol hm htol => step_refused_config ?_, fun s w _ hbreak => step_refused_config ?_⟩
  · simpa [configOk, hm] using htol
  · exact Bool.eq_false_iff.2 fun hok => hbreak (matchersOf_meet_conditions hok)

/-! ### Power -/

/-- Settles O45: the state after power-up is made of the parts the two blocks share. -/
theorem powerUpForgetsEverything : Obligations.PowerUpForgetsEverything := by
  intro s s' rest hok hcfg hcap hcomplete h h'
  have up : step s = .next (s.withInputs rest).afterPowerUp := step_input hok h
  have up' : step s' = .next (s'.withInputs rest).afterPowerUp := step_input (hcfg ▸ hok) h'
  refine ⟨?_, up⟩
  rw [up, up']
  simp only [State.afterPowerUp, State.withInputs, hcfg, hcap, hcomplete]

/-- Settles O58: the state after power loss is made of the parts the two blocks share, and it takes no command. -/
theorem powerLossForgetsEverything : Obligations.PowerLossForgetsEverything := by
  intro s s' rest hok hcfg hcap hcomplete htx h h'
  have alike : (s'.withInputs rest).afterPowerLoss = (s.withInputs rest).afterPowerLoss := by
    simp only [State.afterPowerLoss, State.afterPowerUp, State.withInputs, hcfg, hcap, hcomplete, htx]
  refine ⟨(s.withInputs rest).afterPowerLoss, step_input hok h, ?_, rfl, readRxp_of_not_valid rfl,
    readRxTag_of_not_valid rfl, ?_⟩
  · rw [← alike]
    exact step_input (hcfg ▸ hok) h'
  · exact fun w rest' hrest => step_command_before_reset hok rfl hrest

/-! ### What every step keeps -/

/-- A step never faults: no command does and no other input can (R97). -/
theorem step_ne_fault (s : State) (r : Fault) : step s ≠ .fault r := by
  cases hok : configOk s.cfg with
  | false => rw [step_refused_config hok]; nofun
  | true =>
    cases hin : s.inputs with
    | nil => rw [step_idle hok hin]; nofun
    | cons i rest =>
      rw [step_input hok hin]
      cases i with
      | command w =>
        simp only [accept, runCommand]
        split
        · exact (commandsRefusedOnlyForBrokenDuties (decode w) _).1 r
        · nofun
      | capture record complete =>
        simp only [accept]
        split <;> nofun
      | txPrimitive ready => nofun
      | powerLoss => nofun
      | powerUp => nofun

/-- A step leaves the parameters (R111(d)). -/
theorem step_cfg {s t : State} (h : step s = .next t) : t.cfg = s.cfg := by
  obtain ⟨-, ⟨-, rfl⟩ | ⟨i, rest, -, hcase⟩⟩ := step_cases h
  · rfl
  · rcases hcase with ⟨w, -, -, he⟩ | ⟨record, complete, -, -, rfl⟩ | ⟨ready, -, rfl⟩ | ⟨-, rfl⟩ | ⟨-, rfl⟩
    · obtain ⟨-, -, -, -, hcfg, -⟩ := commandsLeavePlatformState _ _ _ he
      exact hcfg
    · rfl
    · rfl
    · rfl
    · rfl

/-- Settles O50: no input faults, and neither a command nor power writes the parameters. -/
theorem stepNeverFaultsNorReconfigures : Obligations.StepNeverFaultsNorReconfigures :=
  fun s => ⟨step_ne_fault s, fun _ => step_cfg⟩

end Sys2Proof.Machine
end

section
/-! PROOF. The invariant (R90): it holds after reset and every step keeps it; what it says about the bytes no
property owns and about the first five bytes; and a list of SETs run in order (R42). -/

namespace Sys2Proof.Machine

/-! ### The payload's part of the invariant -/

/-- What the invariant says about the payload alone: (I1), (I2), (I6) and (I4) of R90. -/
structure PayloadInv (p : Payload) : Prop where
  prefixBytes : prefixHolds p
  fields : fieldsKnown p
  unowned : unownedClear p
  checksum : sealed p

theorem Inv.payload {s : State} (h : Inv s) : PayloadInv s.p := ⟨h.prefixBytes, h.fields, h.unowned, h.checksum⟩

/-- The defaults the reset sequence applies set every field and no bit that no property owns (R107). -/
theorem defaultsPayload_fields (mode : DefaultMode) :
    fieldsKnown (defaultsPayload mode) ∧ unownedClear (defaultsPayload mode) := by
  constructor
  · intro q
    cases mode <;> cases q <;> decide
  · unfold unownedClear
    cases mode <;> decide

theorem ne_tag_of_le {j : Fin 14} (h : j.val ≤ 11) : j ≠ 12 ∧ j ≠ 13 := by omega

/-- The bits no property owns are clear after reset (R79). -/
theorem unownedClear_resetPayload (c : Config) : unownedClear (resetPayload c) := by
  intro j h5 h11
  obtain ⟨h12, h13⟩ := ne_tag_of_le h11
  rw [resetPayload_get_other c j h12 h13]
  exact (defaultsPayload_fields c.defaultMode).2 j h5 h11

theorem prefixHolds_resetPayload (c : Config) : prefixHolds (resetPayload c) := by
  rw [resetPayload_eq]
  rfl

theorem payloadInv_resetPayload (c : Config) : PayloadInv (resetPayload c) where
  prefixBytes := prefixHolds_resetPayload c
  fields q := by
    rw [resetPayload, fieldValue_sealPayload]
    exact (defaultsPayload_fields c.defaultMode).1 q
  unowned := unownedClear_resetPayload c
  checksum := resetPayload_get_checksum c

theorem prefixHolds_setPayload (q : Property) (c : Fin q.count) {p : Payload} (h : prefixHolds p) :
    prefixHolds (setPayload q c p) := by
  have low : ∀ j : Fin 14, j.val ≤ 4 → (setPayload q c p)[j] = p[j] := setPayload_low q c p
  rw [prefixHolds_iff] at h ⊢
  obtain ⟨h0, h1, h2, h3, h4⟩ := h
  exact ⟨(low 0 (by decide)).trans h0, (low 1 (by decide)).trans h1, (low 2 (by decide)).trans h2,
    (low 3 (by decide)).trans h3, (low 4 (by decide)).trans h4⟩

theorem payloadInv_setPayload (q : Property) (c : Fin q.count) {p : Payload} (h : PayloadInv p) :
    PayloadInv (setPayload q c p) where
  prefixBytes := prefixHolds_setPayload q c h.prefixBytes
  fields r := by
    obtain ⟨same, other⟩ := fieldValue_setPayload q r c p
    by_cases hqr : q = r
    · subst hqr
      exact ⟨c, same⟩
    · obtain ⟨d, hd⟩ := h.fields r
      exact ⟨d, (other hqr).trans hd⟩
  unowned j h5 h11 := (setPayload_unowned q c p j h5 h11).trans (h.unowned j h5 h11)
  checksum := sealPayload_get_checksum q.tag _

/-! ### The log's part of the invariant -/

/-- With an empty log the payload is the reset payload (I7). -/
theorem framesExplain_of_reset {s : State} (hp : s.p = resetPayload s.cfg) (hl : s.txLog = []) :
    framesExplain s := ⟨[], hl, nofun, fun _ => hp, nofun⟩

/-- A SET adds its frame to those that explain the log, and leaves the payload of that frame (I5, I7). -/
theorem framesExplain_afterSet (q : Property) (c : Fin q.count) {s : State} (h : framesExplain s) :
    framesExplain (afterSet q c s) := by
  obtain ⟨frames, hlog, hframes, -, -⟩ := h
  refine ⟨frames ++ [setPayload q c s.p], ?_, ?_, by simp, ?_⟩
  · rw [afterSet_txLog, hlog, List.flatMap_append, List.flatMap_singleton]
    rfl
  · intro b hb
    rcases List.mem_append.1 hb with hold | hnew
    · exact hframes b hold
    · obtain rfl := List.mem_singleton.1 hnew
      exact ⟨sealPayload_get_checksum q.tag _, q, sealPayload_get_tag q.tag _⟩
  · intro b hb
    rw [List.getLast?_concat] at hb
    exact Option.some.inj hb

/-! ### The whole invariant -/

theorem Inv.of_parts {s : State} (payload : PayloadInv s.p) (frames : framesExplain s)
    (statusCode : s.status.toNat ≤ 7) (rx : rxCoherent s) (capture : captureFits s.cfg s.cap = true) : Inv s :=
  ⟨payload.prefixBytes, payload.fields, payload.unowned, payload.checksum, frames, statusCode, rx, capture⟩

/-- A state with the payload, the log and the parameters of one that meets the invariant. -/
theorem Inv.congr {s t : State} (h : Inv s) (hp : t.p = s.p) (hl : t.txLog = s.txLog) (hcfg : t.cfg = s.cfg)
    (hstatus : t.status.toNat ≤ 7) (hrx : rxCoherent t) (hcap : captureFits t.cfg t.cap = true) : Inv t := by
  obtain ⟨frames, explain⟩ := h.frames
  exact .of_parts (hp ▸ h.payload) ⟨frames, by rwa [hl, hp, hcfg]⟩ hstatus hrx hcap

/-- A state with the registers of the reset sequence. -/
theorem inv_of_reset_registers {t : State} (hp : t.p = resetPayload t.cfg) (hl : t.txLog = [])
    (hstatus : t.status = 0x00) (hrx : t.rxValid = false ∧ t.rxp = none ∧ t.rxTag = none ∧ t.rxTagValid = false)
    (hcap : captureFits t.cfg t.cap = true) : Inv t :=
  .of_parts (hp ▸ payloadInv_resetPayload t.cfg) (framesExplain_of_reset hp hl) (hstatus ▸ Nat.zero_le _) (.inl hrx)
    hcap

/-- Settles O51: the reset sequence writes the registers, and the empty record fits. -/
theorem resetMeetsInv : Obligations.ResetMeetsInv := fun c =>
  inv_of_reset_registers rfl rfl rfl ⟨rfl, rfl, rfl, rfl⟩ ((captureFits_iff c []).2 ⟨Nat.zero_le _, nofun⟩)

theorem inv_afterSet (q : Property) (c : Fin q.count) {s : State} (h : Inv s) : Inv (afterSet q c s) :=
  .of_parts (payloadInv_setPayload q c h.payload) (framesExplain_afterSet q c h.frames) (Nat.zero_le _) h.rx h.capture

theorem inv_afterDec {a : Payload} (ha : sealed a) {s : State} (h : Inv s) : Inv (afterDec a s) :=
  h.congr rfl rfl rfl (Nat.zero_le _) (.inr ⟨a, rfl, rfl, rfl, rfl, ha⟩) h.capture

/-- A command keeps the invariant (R90). -/
theorem exec_inv {i : Instr} {s t : State} (h : Inv s) (he : exec i s = .next t) : Inv t := by
  rcases exec_cases he with ⟨st, resp, rfl, -⟩ | ⟨q, c, -, -, rfl⟩ | ⟨a, -, ha, rfl⟩
  · exact h.congr rfl rfl rfl st.code_toNat_le h.rx h.capture
  · exact inv_afterSet q c h
  · exact inv_afterDec ha h

theorem inv_withInputs {s : State} (h : Inv s) (rest : List Input) : Inv (s.withInputs rest) :=
  h.congr rfl rfl rfl h.statusCode h.rx h.capture

/-- Settles O52, by what a step can do: a command keeps the invariant, a record is checked before it is taken,
the TX primitive is not in it, and power leaves the registers of the reset sequence. -/
theorem stepKeepsInv : Obligations.StepKeepsInv := by
  intro s t h hstep
  obtain ⟨-, ⟨-, rfl⟩ | ⟨i, rest, -, hcase⟩⟩ := step_cases hstep
  · exact h
  · rcases hcase with ⟨w, -, -, he⟩ | ⟨record, complete, -, hf, rfl⟩ | ⟨ready, -, rfl⟩ | ⟨-, rfl⟩ | ⟨-, rfl⟩
    · exact exec_inv (inv_withInputs h rest) he
    · exact h.congr rfl rfl rfl h.statusCode h.rx hf
    · exact h.congr rfl rfl rfl h.statusCode h.rx h.capture
    · exact inv_of_reset_registers rfl rfl rfl ⟨rfl, rfl, rfl, rfl⟩ h.capture
    · exact inv_of_reset_registers rfl rfl rfl ⟨rfl, rfl, rfl, rfl⟩ h.capture

/-! ### Bytes and bits no command writes -/

/-- A byte without unowned bits is its owned bits. -/
theorem and_ownedBits {p : Payload} (h : unownedClear p) {j : Fin 14} (h5 : 5 ≤ j.val) (h11 : j.val ≤ 11) :
    p[j] = p[j] &&& ownedBits j := by
  conv_lhs => rw [← maskedWrite_and_mask_self p[j] (ownedBits j), h j h5 h11]
  exact BitVec.zero_or

/-- What the invariant says of the bytes 5, 8, 9 and 10 (R79). -/
theorem bytes_of_inv {s : State} (h : Inv s) :
    s.p[9] = 0x00 ∧ s.p[10] = 0x00 ∧ (s.p[5] = 0x20 ∨ s.p[5] = 0x24) ∧
    ∃ (f : Fin (Property.count .fanSpeed)) (v : Fin (Property.count .verticalPosition)),
      s.p[8] = Property.value .fanSpeed f ||| Property.value .verticalPosition v := by
  have owned : ∀ j : Fin 14, 5 ≤ j.val → j.val ≤ 11 → s.p[j] = s.p[j] &&& ownedBits j :=
    fun j h5 h11 => and_ownedBits h.unowned h5 h11
  obtain ⟨power, hpower⟩ := h.fields .powerState
  obtain ⟨fan, hfan⟩ := h.fields .fanSpeed
  obtain ⟨vertical, hvertical⟩ := h.fields .verticalPosition
  have byte5 : s.p[5] = Property.value .powerState power := (owned 5 (by decide) (by decide)).trans hpower
  have power_values : ∀ c, Property.value .powerState c = 0x20 ∨ Property.value .powerState c = 0x24 := by decide
  refine ⟨(owned 9 (by decide) (by decide)).trans BitVec.and_zero,
    (owned 10 (by decide) (by decide)).trans BitVec.and_zero, byte5 ▸ power_values power, fan, vertical, ?_⟩
  calc s.p[8] = s.p[8] &&& (Property.mask .fanSpeed ||| Property.mask .verticalPosition) :=
        owned 8 (by decide) (by decide)
    _ = (s.p[8] &&& Property.mask .fanSpeed) ||| (s.p[8] &&& Property.mask .verticalPosition) :=
        BitVec.and_or_distrib_left
    _ = Property.value .fanSpeed fan ||| Property.value .verticalPosition vertical := by
        rw [← hfan, ← hvertical]; rfl

/-- Settles O12: reset leaves them clear, a command leaves the payload or makes it a SET's, and the invariant has
them clear. -/
theorem unownedBitsStayClear : Obligations.UnownedBitsStayClear := by
  refine ⟨unownedClear_resetPayload, fun i s t j h h5 h11 => ?_, fun _ => bytes_of_inv⟩
  rcases exec_payload_cases h with hp | ⟨q, c, hp⟩ <;> rw [hp]
  exact setPayload_unowned q c s.p j h5 h11

/-- No command writes the first five bytes (R16). -/
theorem exec_low_bytes {i : Instr} {s t : State} (h : exec i s = .next t) (j : Fin 14) (hj : j.val ≤ 4) :
    t.p[j] = s.p[j] := by
  rcases exec_payload_cases h with hp | ⟨q, c, hp⟩ <;> rw [hp]
  exact setPayload_low q c s.p j hj

/-- A step keeps the first five bytes PREFIX (R16). -/
theorem step_prefixHolds {s t : State} (h : prefixHolds s.p) (hstep : step s = .next t) : prefixHolds t.p := by
  obtain ⟨-, ⟨-, rfl⟩ | ⟨i, rest, -, hcase⟩⟩ := step_cases hstep
  · exact h
  · rcases hcase with ⟨w, -, -, he⟩ | ⟨record, complete, -, -, rfl⟩ | ⟨ready, -, rfl⟩ | ⟨-, rfl⟩ | ⟨-, rfl⟩
    · rcases exec_payload_cases he with hp | ⟨q, c, hp⟩ <;> rw [hp]
      · exact h
      · exact prefixHolds_setPayload q c h
    · exact h
    · exact h
    · exact prefixHolds_resetPayload s.cfg
    · exact prefixHolds_resetPayload s.cfg

/-- The first five bytes after reset, by position (R16, R110). -/
theorem resetPayload_low (c : Config) (j : Fin 14) (hj : j.val ≤ 4) :
    some (resetPayload c)[j] = ([0x23, 0xCB, 0x26, 0x01, 0x00] : List Byte)[j.val]? := by
  have bytes : (resetPayload c).toList.take 5 = constPrefix := prefixHolds_resetPayload c
  change _ = constPrefix[j.val]?
  rw [← bytes, List.getElem?_take_of_lt (Nat.lt_succ_of_le hj), Vector.getElem?_toList,
    Vector.getElem?_eq_getElem j.isLt]
  rfl

/-- Settles O20: neither the reset sequence nor a SET writes anything else there. -/
theorem prefixBytesNeverWritten : Obligations.PrefixBytesNeverWritten :=
  ⟨resetPayload_low, fun _ _ _ j h hj => exec_low_bytes h j hj, fun _ _ => step_prefixHolds⟩

/-! ### A list of SETs -/

/-- A run goes on from the state its first step leaves. -/
theorem run_succ {s t : State} (h : step s = .next t) (k : Nat) :
    Host.Core.run core (k + 1) s = Host.Core.run core k t := by
  have first : core.step s = .next t := h
  simp only [Host.Core.run, first]

/-- The step of a SET of a known label (R84, R89). -/
theorem step_set {s : State} {rest : List Input} (hrun : s.running) (htx : s.txReady = true) (q : Property)
    (c : Fin q.count) (h : s.inputs = .command (encode (.set q.code (BitVec.ofNat 8 c.val))) :: rest) :
    step s = .next (afterSet q c (s.withInputs rest)) := by
  rw [step_command hrun.1 hrun.2 h, decode_encode rfl]
  exact exec_set_known q c htx

/-- Settles O53, by induction on the list: the first SET leaves a state that runs, with the other SETs to come. -/
theorem setsTransmitInIssueOrder : Obligations.SetsTransmitInIssueOrder := by
  intro sets
  induction sets with
  | nil => exact fun s rest _ _ h => ⟨s, rfl, (List.append_nil _).symm, rfl, rfl, h⟩
  | cons x sets ih =>
    intro s rest hrun htx h
    obtain ⟨q, c⟩ := x
    obtain ⟨t, hrest, hlog, hp, hidx, hin⟩ := ih (afterSet q c (s.withInputs (setWords sets ++ rest))) rest hrun htx rfl
    refine ⟨t, (run_succ (step_set hrun htx q c h) _).trans hrest, ?_, hp, ?_, hin⟩
    · rw [hlog, setPayloads, List.flatMap_cons, ← List.append_assoc]
      rfl
    · rw [hidx, List.length_cons]
      exact Nat.succ_add_eq_add_succ _ _

end Sys2Proof.Machine
end

section
/-! PROOF. The string layer (R54 to R56): names and labels against their codes. -/

namespace Sys2Proof.Machine

/-! ### Property names -/

theorem propOfName_name (q : Property) : propOfName q.name = q.code := by cases q <;> decide

/-- A string that is no property's name gives 0xF (R54). -/
theorem propOfName_other {name : String} (h : ∀ q : Property, name ≠ q.name) : propOfName name = 0xF := by
  have none_found : Property.all.find? (fun q => q.name == name) = none := by
    rw [List.find?_eq_none]
    intro q _ hq
    exact h q (beq_iff_eq.1 hq).symm
  rw [propOfName, none_found]

/-- Settles O54: a name gives its property's code, every other string the code of none. -/
theorem propertyNamesMapExactly : Obligations.PropertyNamesMapExactly := by
  refine ⟨fun name q => ⟨fun h => ?_, ?_⟩, fun name => propOfName_other, by decide⟩
  · by_cases hname : ∃ r : Property, name = r.name
    · obtain ⟨r, rfl⟩ := hname
      rw [propOfName_name] at h
      rw [code_injective r q h]
    · rw [propOfName_other (not_exists.1 hname)] at h
      cases q <;> cases h
  · rintro rfl
    exact propOfName_name q

/-! ### Labels -/

/-- The canonical label of a code (R21). -/
def Property.label (q : Property) (c : Fin q.count) : String := (q.labels.get c).1

/-- The search for a label that no code has finds nothing (R55). -/
theorem canonicalCode_other {q : Property} {suffix text : String}
    (h : ∀ c : Fin q.count, text ≠ q.label c ++ suffix) : canonicalCode q suffix text = none := by
  have none_found : q.labels.findIdx? (fun e => e.1 ++ suffix == text) = none := by
    rw [List.findIdx?_eq_none_iff]
    intro e he
    obtain ⟨n, hn, rfl⟩ := List.mem_iff_getElem.1 he
    exact beq_eq_false_iff_ne.2 (h ⟨n, hn⟩).symm
  rw [canonicalCode, none_found]
  rfl

/-- A string stands for a label code: its canonical label, an uppercase power label, or a temperature label with the
suffix (R55 steps 1 to 3). -/
def IsLabel (q : Property) (c : Fin q.count) (text : String) : Prop :=
  text = q.label c ∨ (q = .powerState ∧ ((text = "OFF" ∧ c.val = 0) ∨ (text = "ON" ∧ c.val = 1))) ∨
  (q = .temperature ∧ text = q.label c ++ ".0")

/-- A canonical label reads as its code (R55 step 1). -/
theorem labelOfName_label (q : Property) (c : Fin q.count) : labelOfName q (q.label c) = BitVec.ofNat 8 c.val := by
  revert c; cases q <;> decide

/-- A temperature label with the suffix reads as its code (R55 step 3). -/
theorem labelOfName_temperature_suffix (c : Fin (Property.count .temperature)) :
    labelOfName .temperature (Property.label .temperature c ++ ".0") = BitVec.ofNat 8 c.val := by
  revert c; decide

theorem labelOfName_of_isLabel {q : Property} {c : Fin q.count} {text : String} (h : IsLabel q c text) :
    labelOfName q text = BitVec.ofNat 8 c.val := by
  rcases h with rfl | ⟨rfl, ⟨rfl, hc⟩ | ⟨rfl, hc⟩⟩ | ⟨rfl, rfl⟩
  · exact labelOfName_label q c
  · rw [hc]; decide
  · rw [hc]; decide
  · exact labelOfName_temperature_suffix c

/-- A string that stands for no code is none of the uppercase power labels (R55 step 2). -/
theorem powerAlias_other {q : Property} {text : String} (h : ∀ c : Fin q.count, ¬ IsLabel q c text) :
    powerAlias q text = none := by
  by_cases hq : q = .powerState
  · subst hq
    have not_off : text ≠ "OFF" := fun ht => h ⟨0, by decide⟩ (.inr (.inl ⟨rfl, .inl ⟨ht, rfl⟩⟩))
    have not_on : text ≠ "ON" := fun ht => h ⟨1, by decide⟩ (.inr (.inl ⟨rfl, .inr ⟨ht, rfl⟩⟩))
    simp [powerAlias, not_off, not_on]
  · simp [powerAlias, hq]

/-- A string that stands for no code is no temperature label with the suffix (R55 step 3). -/
theorem temperatureAlias_other {q : Property} {text : String} (h : ∀ c : Fin q.count, ¬ IsLabel q c text) :
    temperatureAlias q text = none := by
  by_cases hq : q = .temperature
  · rw [temperatureAlias, if_pos hq]
    exact canonicalCode_other fun c hc => h c (.inr (.inr ⟨hq, hc⟩))
  · rw [temperatureAlias, if_neg hq]

/-- A string that stands for no code reads as 0xFF (R55 step 4). -/
theorem labelOfName_other {q : Property} {text : String} (h : ∀ c : Fin q.count, ¬ IsLabel q c text) :
    labelOfName q text = noLabel := by
  have canonical : canonicalCode q "" text = none :=
    canonicalCode_other fun c hc => h c (.inl (hc.trans String.append_empty))
  simp only [labelOfName, canonical, powerAlias_other h, temperatureAlias_other h]

/-- Label codes below the count are different bytes (R51). -/
theorem ofNat_code_injective {q : Property} {c d : Fin q.count} (h : BitVec.ofNat 8 c.val = BitVec.ofNat 8 d.val) :
    c = d := by
  apply Fin.ext
  rw [← code_toNat q c, h, code_toNat]

/-- A string reads as a code exactly when it stands for it (R55). -/
theorem labelOfName_eq_iff (q : Property) (text : String) (c : Fin q.count) :
    labelOfName q text = BitVec.ofNat 8 c.val ↔ IsLabel q c text := by
  refine ⟨fun h => ?_, labelOfName_of_isLabel⟩
  by_cases hlabel : ∃ d, IsLabel q d text
  · obtain ⟨d, hd⟩ := hlabel
    rw [labelOfName_of_isLabel hd] at h
    exact ofNat_code_injective h ▸ hd
  · rw [labelOfName_other (not_exists.1 hlabel)] at h
    exact absurd h.symm (noLabel_ne q c)

/-- Settles O55: a string reads as the one code it stands for, or as 0xFF. -/
theorem labelStringsMapExactly : Obligations.LabelStringsMapExactly := by
  refine fun q text => ⟨labelOfName_eq_iff q text, fun h => labelOfName_other fun c hc => ?_⟩
  exact h c (labelOfName_of_isLabel hc)

/-- Settles O56: the text of a code is its canonical label, which reads as the code. -/
theorem labelTextsAreCanonical : Obligations.LabelTextsAreCanonical := by
  refine ⟨fun q c => ⟨?_, labelOfName_label q c⟩, fun _ => rfl⟩
  have at_code : q.labels[c.val]? = some (q.labels.get c) := List.getElem?_eq_getElem c.isLt
  rw [labelText, if_neg (noLabel_ne q c), code_toNat, at_code]
  rfl

end Sys2Proof.Machine
end
